-- ==== Sys2Proof/Word.lean ====
section
/-! DEFINITION. The word types of the FSK-CID receiver block (00_scope.md R12: a register of width N). -/

namespace Sys2Proof

/-- A byte of the stream or of the message buffer (20_memory.md R60). -/
abbrev Byte := BitVec 8

/-- A signed 16-bit sample, bit 15 the sign (30_encoding.md R98). -/
abbrev Sample := BitVec 16

/-- The index on `mb_addr` (30_encoding.md R97). -/
abbrev MbAddr := BitVec 9

/-- The operand field of HIST.SHIFT in an operation word; the operation reads its low `YW` bits.
DESIGN CHOICE, unsafe (log 21): `YW` depends on the configuration, 64 bits hold it for every practical one. -/
abbrev YWord := BitVec 64

/-- An operation word of the model: 16 stream bits, 8 selector bits, 64 operand bits.
DESIGN CHOICE, safe (log 1): the block decodes no instruction words. -/
abbrev OpWord := BitVec 88

end Sys2Proof
end

