-- ==== Sys2Proof/Syntax.lean ====
section
/-! DEFINITION. The operations of the block, one constructor per row of spec/opcode_table.json (30_encoding.md
R100), in the table's order, and the state codes that select among them (10_state.md R29, R33, R34). -/

namespace Sys2Proof

/-- The framer state `fs` (10_state.md R29). -/
inductive FState where
  | idle | start | data | stop
  deriving DecidableEq, Repr

/-- The decoder state `ds` (10_state.md R33). The unused codes 10 to 15 are left out of the type, as R33 allows. -/
inductive DState where
  | mt | ml | dt | dl | data | ck | complete | ckfail | unknown | malformed
  deriving DecidableEq, Repr

/-- The format tag `fmt` (10_state.md R34). Code 3 is never written (R34, I11). -/
inductive Fmt where
  | none | sdmf | mdmf
  deriving DecidableEq, Repr

/-- The operations (30_encoding.md R100). -/
inductive Instr where
  /-- FRAME(v): the line frame that carries `v` (R80). -/
  | frame (v : Byte)
  /-- START (R118). -/
  | start
  /-- PUSH(x) (R111). -/
  | push (x : Sample)
  /-- RDST (R119). -/
  | rdst
  /-- RDMB(a) (R120). -/
  | rdmb (a : MbAddr)
  /-- POP (R113). -/
  | pop
  /-- DISC.STEP(x) (R131). -/
  | discStep (x : Sample)
  /-- MF.MARK (R136). -/
  | mfMark
  /-- MF.SPACE (R137). -/
  | mfSpace
  /-- DIFF (R138). -/
  | diff
  /-- POSTF (R139). -/
  | postf
  /-- HIST.SHIFT(y) (R151). -/
  | histShift (y : YWord)
  /-- PLL.HOLD (R153). -/
  | pllHold
  /-- PLL.SNAP (R154). -/
  | pllSnap
  /-- PLL.NUDGE (R155). -/
  | pllNudge
  /-- PLL.ADV (R156). -/
  | pllAdv
  /-- PLL.LATCH, with PLL.ROUND (R157). -/
  | pllLatch
  /-- PLL.ROUND on its own (R158). -/
  | pllRound
  /-- FR.START.OK: the bit is 0 (R171). -/
  | frStartOk
  /-- FR.START.FALSE: the bit is 1 (R172). -/
  | frStartFalse
  /-- FR.DATA, any bit (R173). -/
  | frData (b : Bool)
  /-- FR.STOP.OK: the bit is 1 (R175). -/
  | frStopOk
  /-- FR.STOP.BAD: the bit is 0 (R176). -/
  | frStopBad
  /-- OVF on the byte `v` (R193). -/
  | ovf (v : Byte)
  /-- APPEND(v) on its own (R192). -/
  | append (v : Byte)
  /-- MT.MDMF: the byte is 0x80 (R195). -/
  | mtMdmf
  /-- MT.SDMF: the byte is 0x04 (R196). -/
  | mtSdmf
  /-- MT.OTHER on any other byte `v` (R197). -/
  | mtOther (v : Byte)
  /-- ML.ANY(v) (R198). -/
  | mlAny (v : Byte)
  /-- DT.DATE: the byte is 0x01 (R199). -/
  | dtDate
  /-- DT.NUMBER: the byte is 0x02 (R200). -/
  | dtNumber
  /-- DT.NONUMBER: the byte is 0x04 (R201). -/
  | dtNonumber
  /-- DT.NAME: the byte is 0x07 (R202). -/
  | dtName
  /-- DT.NONAME: the byte is 0x08 (R203). -/
  | dtNoname
  /-- DT.OTHER on any other byte `v` (R204). -/
  | dtOther (v : Byte)
  /-- DL.ANY(v) (R205). -/
  | dlAny (v : Byte)
  /-- DATA.ANY on the byte `v` (R207). -/
  | dataAny (v : Byte)
  /-- CK.ANY(v) (R209). -/
  | ckAny (v : Byte)
  /-- EXTRACT, host software (R221). -/
  | extract
  deriving DecidableEq, Repr

end Sys2Proof
end

