-- ==== Sys2Proof/WellFormed.lean ====
section
/-! DEFINITION. Which operations can be named: a catch-all row applies only to a byte that no more specific row of
its state takes (30_encoding.md R102). -/

namespace Sys2Proof

/-- The bytes that the rows MT.MDMF and MT.SDMF take (30_encoding.md R87). -/
def mtTaken (v : Byte) : Bool := v == 0x80 || v == 0x04

/-- The bytes that the five recognised data-type rows take (30_encoding.md R88). -/
def dtTaken (v : Byte) : Bool := v == 0x01 || v == 0x02 || v == 0x04 || v == 0x07 || v == 0x08

/-- MT.OTHER stands only for the 254 other bytes (R87), DT.OTHER only for the 251 other bytes (R88). Every other
operand is right by its type. -/
def Instr.wellFormed : Instr → Bool
  | .mtOther v => !mtTaken v
  | .dtOther v => !dtTaken v
  | .frame _ | .start | .push _ | .rdst | .rdmb _ | .pop => true
  | .discStep _ | .mfMark | .mfSpace | .diff | .postf => true
  | .histShift _ | .pllHold | .pllSnap | .pllNudge | .pllAdv | .pllLatch | .pllRound => true
  | .frStartOk | .frStartFalse | .frData _ | .frStopOk | .frStopBad => true
  | .ovf _ | .append _ | .mtMdmf | .mtSdmf | .mlAny _ => true
  | .dtDate | .dtNumber | .dtNonumber | .dtName | .dtNoname => true
  | .dlAny _ | .dataAny _ | .ckAny _ | .extract => true

end Sys2Proof
end

