-- ==== Sys2Proof/Decode.lean ====
section
/-! DEFINITION. Decoding. First the block's own: the state and the stream select the next operation
(30_encoding.md R100, 42 R153 to R155, 43 R170, 44 R190). Then the model's operation words, decoder and encoder
(log 1, log 2): the block itself decodes no instruction words (30_encoding.md, head). -/

namespace Sys2Proof

/-! ## Selection by the state and the stream -/

/-- The PLL's transition operation of a POP, none inside a frame without a transition (40 R113, 42 R153 to R155).
`tr` is `TRANS()`, `neg` is `x0 < 0`. -/
def selectTransition (fs : FState) (tr neg : Bool) : Option Instr :=
  match fs with
  | .idle => some (if tr && neg then .pllSnap else .pllHold)
  | .start | .data | .stop => if tr then some .pllNudge else none

/-- The framer operation of a latched bit (43 R170); FRAMER is never entered in `FS_IDLE`. -/
def selectFramer (fs : FState) (b : Bool) : Option Instr :=
  match fs with
  | .idle => none
  | .start => some (if b then .frStartFalse else .frStartOk)
  | .data => some (.frData b)
  | .stop => some (if b then .frStopOk else .frStopBad)

/-- The decoder operation of a byte (44 R190): none in a terminal state (R191), OVF first when the buffer is full
(R193), else the row of the state and the byte (R87, R88). -/
def selectDecoder (ds : DState) (full : Bool) (v : Byte) : Option Instr :=
  match ds with
  | .complete | .ckfail | .unknown | .malformed => none
  | .mt | .ml | .dt | .dl | .data | .ck =>
    if full then some (.ovf v) else
    match ds with
    | .mt => some (if v = 0x80 then .mtMdmf else if v = 0x04 then .mtSdmf else .mtOther v)
    | .ml => some (.mlAny v)
    | .dt => some (
        if v = 0x01 then .dtDate
        else if v = 0x02 then .dtNumber else if v = 0x04 then .dtNonumber
        else if v = 0x07 then .dtName else if v = 0x08 then .dtNoname
        else .dtOther v)
    | .dl => some (.dlAny v)
    | .data => some (.dataAny v)
    | .ck => some (.ckAny v)
    | .complete | .ckfail | .unknown | .malformed => none

/-! ## The model's operation words -/

/-- Why a word is no operation's. -/
inductive Reject where
  /-- no row of the table has this selector -/
  | unknownSelector
  /-- the stream bits are not those of the row -/
  | streamBits
  /-- operand bits that the row does not have are set -/
  | operandBits
  /-- a catch-all row is named for a byte that a more specific row takes (R102) -/
  | moreSpecificRow
  /-- the word has no selector and its stream bits alone name no row: the table selects the row by the state -/
  | noRowWithoutState
  deriving DecidableEq, Repr

/-- Operand, selector and stream bits, the stream bits lowest. DESIGN CHOICE, safe (log 1). -/
def packWord (operand : BitVec 64) (selector : BitVec 8) (stream : BitVec 16) : OpWord :=
  operand ++ selector ++ stream

/-- Bits 15..0: the bits the row's match and mask speak of (30_encoding.md R102), or the host port's operand. -/
def wordStream (w : OpWord) : BitVec 16 := w.extractLsb' 0 16

/-- Bits 23..16: the number of the row in spec/opcode_table.json, counted from 1; 0 names no row. -/
def wordSelector (w : OpWord) : BitVec 8 := w.extractLsb' 16 8

/-- Bits 87..24: the operand of HIST.SHIFT; 0 for every other row. -/
def wordOperand (w : OpWord) : BitVec 64 := w.extractLsb' 24 64

/-- The line frame in time order, the first bit lowest: start 0, `v[0]` .. `v[7]`, stop 1 (30_encoding.md R80). -/
def frameStream (v : Byte) : BitVec 16 := (0 : BitVec 6) ++ (1 : BitVec 1) ++ v ++ (0 : BitVec 1)

/-- The byte of a line frame (30_encoding.md R80, R84). -/
def frameByte (st : BitVec 16) : Byte := st.extractLsb' 1 8

/-- The low byte of the stream bits. -/
def lowByte (st : BitVec 16) : Byte := st.extractLsb' 0 8

/-- A row without operand bits of its own: its stream bits are fixed. -/
def decodeFixed (st : BitVec 16) (want : BitVec 16) (i : Instr) : Except Reject Instr :=
  if st = want then .ok i else .error .streamBits

/-- A row whose stream bits are a byte; a catch-all row refuses the bytes of a more specific one (R102). -/
def decodeByte (st : BitVec 16) (f : Byte → Instr) : Except Reject Instr :=
  if st.extractLsb' 8 8 = 0 then
    (if (f (lowByte st)).wellFormed then .ok (f (lowByte st)) else .error .moreSpecificRow)
  else .error .streamBits

/-- FRAME: start bit 0, stop bit 1, nothing above (30_encoding.md R80). -/
def decodeFrame (st : BitVec 16) : Except Reject Instr :=
  if st = frameStream (frameByte st) then .ok (.frame (frameByte st)) else .error .streamBits

/-- A word without a selector: the table's bits alone. The byte rows with a full mask first, in the table's order,
then the one-bit rows, then the frame. Several rows share their bits and differ only in the selecting state, so at
most one of them can be the answer. DESIGN CHOICE, safe (log 2). -/
def decodeUnselected (st : BitVec 16) : Except Reject Instr :=
  if st = 0x80 then .ok .mtMdmf
  else if st = 0x04 then .ok .mtSdmf
  else if st = 0x01 then .ok .dtDate
  else if st = 0x02 then .ok .dtNumber
  else if st = 0x07 then .ok .dtName
  else if st = 0x08 then .ok .dtNoname
  else if st = 0x00 then .ok .frStartOk
  else if st = frameStream (frameByte st) then .ok (.frame (frameByte st))
  else .error .noRowWithoutState

/-- The row of a selector, its operand bits zero. -/
def decodeRow (sel : BitVec 8) (st : BitVec 16) : Except Reject Instr :=
  match sel.toNat with
  | 0 => decodeUnselected st
  | 1 => decodeFrame st
  | 2 => decodeFixed st 0 .start
  | 3 => .ok (.push st)
  | 4 => decodeFixed st 0 .rdst
  | 5 => if st.extractLsb' 9 7 = 0 then .ok (.rdmb (st.extractLsb' 0 9)) else .error .streamBits
  | 6 => decodeFixed st 0 .pop
  | 7 => .ok (.discStep st)
  | 8 => decodeFixed st 0 .mfMark
  | 9 => decodeFixed st 0 .mfSpace
  | 10 => decodeFixed st 0 .diff
  | 11 => decodeFixed st 0 .postf
  | 13 => decodeFixed st 0 .pllHold
  | 14 => decodeFixed st 0 .pllSnap
  | 15 => decodeFixed st 0 .pllNudge
  | 16 => decodeFixed st 0 .pllAdv
  | 17 => decodeFixed st 0 .pllLatch
  | 18 => decodeFixed st 0 .pllRound
  | 19 => decodeFixed st 0 .frStartOk
  | 20 => decodeFixed st 1 .frStartFalse
  | 21 => if st = 0 then .ok (.frData false) else if st = 1 then .ok (.frData true) else .error .streamBits
  | 22 => decodeFixed st 1 .frStopOk
  | 23 => decodeFixed st 0 .frStopBad
  | 24 => decodeByte st .ovf
  | 25 => decodeByte st .append
  | 26 => decodeFixed st 0x80 .mtMdmf
  | 27 => decodeFixed st 0x04 .mtSdmf
  | 28 => decodeByte st .mtOther
  | 29 => decodeByte st .mlAny
  | 30 => decodeFixed st 0x01 .dtDate
  | 31 => decodeFixed st 0x02 .dtNumber
  | 32 => decodeFixed st 0x04 .dtNonumber
  | 33 => decodeFixed st 0x07 .dtName
  | 34 => decodeFixed st 0x08 .dtNoname
  | 35 => decodeByte st .dtOther
  | 36 => decodeByte st .dlAny
  | 37 => decodeByte st .dataAny
  | 38 => decodeByte st .ckAny
  | 39 => decodeFixed st 0 .extract
  | _ => .error .unknownSelector

/-- The operation of a word, total: every word is one operation's or is rejected by name. HIST.SHIFT (selector 12)
alone has operand bits. -/
def decode (w : OpWord) : Except Reject Instr :=
  if wordSelector w = 12 then
    (if wordStream w = 0 then .ok (.histShift (wordOperand w)) else .error .streamBits)
  else if wordOperand w = 0 then decodeRow (wordSelector w) (wordStream w)
  else .error .operandBits

/-! ## The encoder -/

/-- The number of the row in spec/opcode_table.json, counted from 1. -/
def selectorOf : Instr → BitVec 8
  | .frame _ => 1 | .start => 2 | .push _ => 3 | .rdst => 4 | .rdmb _ => 5 | .pop => 6
  | .discStep _ => 7 | .mfMark => 8 | .mfSpace => 9 | .diff => 10 | .postf => 11
  | .histShift _ => 12 | .pllHold => 13 | .pllSnap => 14 | .pllNudge => 15 | .pllAdv => 16
  | .pllLatch => 17 | .pllRound => 18
  | .frStartOk => 19 | .frStartFalse => 20 | .frData _ => 21 | .frStopOk => 22 | .frStopBad => 23
  | .ovf _ => 24 | .append _ => 25 | .mtMdmf => 26 | .mtSdmf => 27 | .mtOther _ => 28
  | .mlAny _ => 29 | .dtDate => 30 | .dtNumber => 31 | .dtNonumber => 32 | .dtName => 33
  | .dtNoname => 34 | .dtOther _ => 35 | .dlAny _ => 36 | .dataAny _ => 37 | .ckAny _ => 38
  | .extract => 39

/-- The stream bits of an operation: the row's match bits, its bit or byte, or the host port's operand. -/
def streamOf : Instr → BitVec 16
  | .frame v => frameStream v
  | .push x | .discStep x => x
  | .rdmb a => (0 : BitVec 7) ++ a
  | .frStartOk | .frStopBad => 0
  | .frStartFalse | .frStopOk => 1
  | .frData b => if b then 1 else 0
  | .mtMdmf => 0x80
  | .mtSdmf => 0x04
  | .dtDate => 0x01
  | .dtNumber => 0x02
  | .dtNonumber => 0x04
  | .dtName => 0x07
  | .dtNoname => 0x08
  | .ovf v | .append v | .mtOther v | .mlAny v | .dtOther v | .dlAny v | .dataAny v | .ckAny v =>
      (0 : BitVec 8) ++ v
  | .start | .rdst | .pop | .mfMark | .mfSpace | .diff | .postf | .histShift _ => 0
  | .pllHold | .pllSnap | .pllNudge | .pllAdv | .pllLatch | .pllRound | .extract => 0

/-- The operand bits of an operation: HIST.SHIFT's alone. -/
def operandOf : Instr → BitVec 64
  | .histShift y => y
  | .frame _ | .start | .push _ | .rdst | .rdmb _ | .pop | .discStep _ | .mfMark | .mfSpace | .diff | .postf => 0
  | .pllHold | .pllSnap | .pllNudge | .pllAdv | .pllLatch | .pllRound => 0
  | .frStartOk | .frStartFalse | .frData _ | .frStopOk | .frStopBad => 0
  | .ovf _ | .append _ | .mtMdmf | .mtSdmf | .mtOther _ | .mlAny _ => 0
  | .dtDate | .dtNumber | .dtNonumber | .dtName | .dtNoname | .dtOther _ => 0
  | .dlAny _ | .dataAny _ | .ckAny _ | .extract => 0

/-- The operation word of an operation, its row named by the selector. -/
def encode (i : Instr) : OpWord := packWord (operandOf i) (selectorOf i) (streamOf i)

/-! ## The host's table words -/

/-- The operation word whose low `nbits` bits are those of `w`, every bit above zero (log 2). -/
def tableOpWord (nbits w : Nat) : OpWord := BitVec.ofNat 88 (w % 2 ^ nbits)

/-- The operation the decoder reads from a word of spec/opcode_table.json, none where it refuses (log 2). -/
def decodeTableWord (nbits w : Nat) : Option Instr :=
  match decode (tableOpWord nbits w) with
  | .ok i => some i
  | .error _ => none

end Sys2Proof
end

