-- ==== Sys2Proof/Config.lean ====
section
/-! DEFINITION. What an implementation fixes when the hardware is built: the primary parameters of
00_scope.md R7, the coefficient ROMs of 41_discriminator.md R135 and the uninterpreted discriminator of R130.
The constants derived from them (R8, R11) and the reference instance stand in Machine/Constants.lean. -/

namespace Sys2Proof

/-- `STD`, the signalling standard: one value (00_scope.md R7). -/
inductive Standard where
  | fsk
  deriving DecidableEq, Repr

/-- The four coefficient ROMs of `DISC_REF`, `W` signed 8-bit words each, taken as data (41 R135;
DESIGN CHOICE, safe, log 20). -/
structure Roms where
  CM_I : List Int
  CM_Q : List Int
  CS_I : List Int
  CS_Q : List Int
  deriving DecidableEq, Repr

/-- The parameter `DISC` (41 R130): the reference discriminator (R133), the identity (R142), or any other
machine with the contract of R130, of which nothing is known but its name and its output width `YW`. -/
inductive Disc where
  | ref (roms : Roms)
  | ident
  | other (name width : Nat)
  deriving DecidableEq, Repr

/-- The primary parameters (00_scope.md R7) and the host side's `FIELD_MAX` (45 R224). -/
structure Config where
  FS : Nat
  BAUD : Nat
  STD : Standard
  F_MARK : Nat
  F_SPACE : Nat
  NSTOP : Nat
  GATE_WINDOW : Nat
  FIFO_DEPTH : Nat
  MSG_MAX : Nat
  DISC : Disc
  FIELD_MAX : Nat
  deriving DecidableEq, Repr

/-- A free value: the reset state of the unknown discriminator of this name (41 R130: "a model takes DISC as an
argument and may assume nothing else of it"). Safe (log 9). -/
opaque Config.otherReset : Nat → List Int

/-- A free value: the step of the unknown discriminator of this name, total and deterministic (41 R130).
Safe (log 9). -/
opaque Config.otherStep : Nat → List Int → Sample → List Int × Int

end Sys2Proof
end

