-- ==== Sys2Proof/Machine/Constants.lean ====
section
/-! DEFINITION. The constants derived from the primary parameters (00_scope.md R8, R11), the constraints on a
configuration (R7, R10) and the reference instance (R7, R8, 41 R135). Exact integer arithmetic throughout. -/

namespace Sys2Proof

/-- `PLLINC`, the accumulator increment per sample (R8). -/
def Config.PLLINC (_ : Config) : Nat := 32

/-- `PLLISPB`, the full cycle (R8). -/
def Config.PLLISPB (c : Config) : Nat := (32 * c.FS) / c.BAUD

/-- `PLLIDS`, the nudge bound (R8). -/
def Config.PLLIDS (c : Config) : Nat := c.PLLISPB / 32

/-- `PLLISPB2`, the bit-centre threshold (R8). -/
def Config.PLLISPB2 (c : Config) : Nat := c.PLLISPB / 2

/-- `rem32` (R8). -/
def Config.rem32 (c : Config) : Nat := (32 * c.FS) % c.BAUD

/-- `PLL_ROUND_OFF` (R8). -/
def Config.PLL_ROUND_OFF (c : Config) : Nat :=
  if c.rem32 = 0 then 0 else c.rem32 / Nat.gcd c.rem32 c.BAUD

/-- `PLL_ROUND_PERIOD` (R8). -/
def Config.PLL_ROUND_PERIOD (c : Config) : Nat :=
  if c.rem32 = 0 then 1 else c.BAUD / Nat.gcd c.rem32 c.BAUD

/-- The least integer not below `a / b`. -/
def ceilDiv (a b : Nat) : Nat := (a + b - 1) / b

/-- `WINDOW`, the source's minimal decode window, the default of `GATE_WINDOW` (R8). -/
def Config.WINDOW (c : Config) : Nat := ceilDiv (12 * c.FS) c.BAUD

/-- `W`, taps per correlator (R11). -/
def Config.W (c : Config) : Nat := ceilDiv c.FS c.BAUD

/-- `L`, taps of the post-filter (R11). -/
def Config.L (c : Config) : Nat := max 1 (c.FS / (2 * c.BAUD))

/-- The least `k` with `n ≤ 2 ^ k`. -/
def ceilLog2 (n : Nat) : Nat := if n ≤ 1 then 0 else Nat.log2 (n - 1) + 1

/-- `YW`, the output width of `DISC` (10_state.md R26): `DISC_REF`'s (41 R139), 16 of `DISC_ID` (R142), and the width
an unknown discriminator comes with (R130). -/
def Config.YW (c : Config) : Nat :=
  match c.DISC with
  | .ref _ => 32 + ceilLog2 c.L
  | .ident => 16
  | .other _ width => width

/-- `ICW`, the least signed width that holds `-(PLLISPB+1) .. PLLISPB+PLLINC` (10_state.md R27). -/
def Config.ICW (c : Config) : Nat := Nat.log2 (c.PLLISPB + c.PLLINC) + 2

/-- `OCCW`, the least width that holds `FIFO_DEPTH` (10_state.md R47). -/
def Config.OCCW (c : Config) : Nat := Nat.log2 c.FIFO_DEPTH + 1

/-- A ROM word: signed, and a rounded multiple of 127 by a sine or a cosine (41 R135; DEDUCED, safe, log 8). -/
def romWord (c : Int) : Bool := decide (-127 ≤ c) && decide (c ≤ 127)

/-- Each ROM of `DISC_REF` has `W` words (41 R135); a signed output has at least one bit (R130, 00_scope.md R12). -/
def Disc.fits (w : Nat) : Disc → Bool
  | .ref r => r.CM_I.length == w && r.CM_Q.length == w && r.CS_I.length == w && r.CS_Q.length == w &&
      r.CM_I.all romWord && r.CM_Q.all romWord && r.CS_I.all romWord && r.CS_Q.all romWord
  | .ident => true
  | .other _ width => decide (1 ≤ width)

/-- The constraints of R7 (refused otherwise, R10, 93_implementation_defined.md I1, I4, I5, I6), and three
that are DEDUCED, safe (log 8): the ROM sizes and words of 41 R135, an output width of at least 1, and
`MSG_MAX ≤ 511`, because `msglen` is 9 bits wide and counts to `MSG_MAX` (R40). -/
def Config.valid (c : Config) : Bool :=
  decide (0 < c.FS) && decide (0 < c.BAUD) && decide (4 * c.BAUD ≤ c.FS) &&
  (c.NSTOP == 1 || c.NSTOP == 2) &&
  decide (1 ≤ c.GATE_WINDOW) && decide (c.GATE_WINDOW ≤ c.FIFO_DEPTH) &&
  decide (3 ≤ c.MSG_MAX) && decide (c.MSG_MAX ≤ 511) &&
  c.DISC.fits c.W

/-- The coefficient ROMs of the reference instance, as data (41 R135). -/
def refRoms : Roms where
  CM_I := [127, 66, -58, -127, -75, 49, 125]
  CM_Q := [0, 108, 113, 10, -103, -117, -20]
  CS_I := [127, -10, -125, 30, 121, -49, -113]
  CS_Q := [0, 127, -20, -123, 39, 117, -58]

/-- The reference instance (00_scope.md R7). -/
def Config.reference : Config where
  FS := 8000
  BAUD := 1200
  STD := .fsk
  F_MARK := 1300
  F_SPACE := 2100
  NSTOP := 1
  GATE_WINDOW := 80
  FIFO_DEPTH := 80
  MSG_MAX := 258
  DISC := .ref refRoms
  FIELD_MAX := 255

end Sys2Proof
end

