-- ==== Sys2Proof/Machine/State.lean ====
section
/-! DEFINITION. The state of the block (10_state.md R20), grouped by its five machines (00_scope.md R2), with the
parameters it is built with, the outputs of the operation just performed and the model's own fields (INVENTORY.md,
State). Plain data. -/

namespace Sys2Proof.Machine

/-- The message buffer's bytes, in the canonical form of `Memory.wf`. -/
abbrev Memory := List Host.Cell

/-- What an unlisted byte of the message buffer is. DESIGN CHOICE, unsafe (log 10): R49 leaves it unspecified; no
operation can observe it (20_memory.md R62). -/
def memDefault : Byte := 0

/-- The canonical form: indices strictly rising, no entry equal to what an unlisted index holds. -/
abbrev Memory.wf (m : Memory) : Prop :=
  m.Pairwise (fun a b => a.1 < b.1) ∧ ∀ e ∈ m, e.2 ≠ memDefault

/-- The sample input stage (10_state.md R21, R22). -/
structure InputStage where
  fifo : List Sample
  inv : Bool
  deriving DecidableEq, Repr

/-- `dstate` (10_state.md R23): the delay lines of `DISC_REF` (R24, R25), newest first, and the state of an unknown
discriminator (log 9). Only the part of the configured `DISC` is used. -/
structure DiscState where
  xs : List Sample
  dl : List Int
  ext : List Int
  deriving DecidableEq, Repr

/-- The bit-timing PLL (10_state.md R26 to R28). -/
structure Pll where
  x0 : Int
  x1 : Int
  x2 : Int
  icont : Int
  rcnt : Nat
  deriving DecidableEq, Repr

/-- The byte framer (10_state.md R29 to R32). -/
structure Framer where
  fs : FState
  nb : BitVec 4
  ns : BitVec 2
  sr : Byte
  deriving DecidableEq, Repr

/-- The message decoder (10_state.md R33 to R41). -/
structure Decoder where
  ds : DState
  fmt : Fmt
  mlen : Byte
  cnt : Byte
  nameseen : Bool
  numseen : Bool
  cks : Byte
  lenbad : Bool
  msglen : BitVec 9
  msgbuf : Memory
  deriving DecidableEq, Repr

/-- The trace outputs of the operation just performed (30_encoding.md R99): `none` is "valid = 0". -/
structure Trace where
  bit : Option Bool
  byte : Option Byte
  deriving DecidableEq, Repr

/-- The results of the discriminator's operations, which are handed on and not held by the block (41 R136 to R140).
The model's own, DESIGN CHOICE, safe (log 13). -/
structure Wires where
  em : Int
  es : Int
  d : Int
  y : Int
  deriving DecidableEq, Repr

/-- The CID record (45 R220): strings are sequences of bytes. -/
structure CidRecord where
  date : List Byte
  time : List Byte
  name : List Byte
  number : List Byte
  deriving DecidableEq, Repr

/-- The result of EXTRACT (45 R220). -/
inductive Extracted where
  | record (r : CidRecord)
  | malformedMessage
  deriving DecidableEq, Repr

/-- What the host read last: the results of RDST (40 R119), RDMB (R120), EXTRACT (45 R221), and whether the sample
it offered last was taken (40 R111). The model's own, DESIGN CHOICE, safe (log 11). -/
structure HostView where
  status : BitVec 32
  status2 : BitVec 32
  occ : Nat
  mbData : Byte
  taken : Bool
  record : Option Extracted
  deriving DecidableEq, Repr

/-- The machine: parameters, the five machines of 00_scope.md R2, outputs, and the operations still to be performed
(log 3). -/
structure State where
  cfg : Config
  inp : InputStage
  disc : DiscState
  pll : Pll
  frm : Framer
  dec : Decoder
  trace : Trace
  wires : Wires
  host : HostView
  pending : List OpWord
  deriving DecidableEq, Repr

/-- The one fault. The spec gives the block no fault (60_exceptions.md R240, R252). -/
inductive Fault where
  /-- Raised by `step` when the next pending word is no operation's word. Safe: such a word is the model's own and
  stands for nothing the block could be given (log 1). -/
  | notAnOperation (why : Reject)
  deriving DecidableEq, Repr

/-- The refusals. -/
inductive Refusal where
  /-- Raised by an arm of `exec` whose instruction has no meaning yet: no arm is left so. Safe. -/
  | notModelled (mnemonic : String)
  /-- Raised by `step` when the configuration breaks a constraint: "a model should refuse" it (00_scope.md R10).
  Safe. -/
  | configurationRefused
  deriving DecidableEq, Repr

/-- `DISC`'s reset state (10_state.md R24, R25, R49; 41 R130, R140, R142). -/
def resetDisc (c : Config) : DiscState :=
  match c.DISC with
  | .ref _ => { xs := List.replicate c.W 0, dl := List.replicate c.L 0, ext := [] }
  | .ident => { xs := [], dl := [], ext := [] }
  | .other n _ => { xs := [], dl := [], ext := Config.otherReset n }

/-- The sample input stage after reset (10_state.md R49). -/
def resetInput : InputStage := { fifo := [], inv := false }

/-- The PLL after reset (10_state.md R49). -/
def resetPll : Pll := { x0 := 0, x1 := 0, x2 := 0, icont := 0, rcnt := 0 }

/-- The framer after reset (10_state.md R49). -/
def resetFramer : Framer := { fs := .idle, nb := 0, ns := 0, sr := 0 }

/-- The decoder after reset (10_state.md R49). -/
def resetDecoder : Decoder :=
  { ds := .mt, fmt := .none, mlen := 0, cnt := 0, nameseen := false, numseen := false, cks := 0, lenbad := false
    msglen := 0, msgbuf := [] }

/-- No bit and no byte on the trace outputs (30_encoding.md R99, 70 R271). -/
def noTrace : Trace := { bit := none, byte := none }

/-- The model's own results at reset. DESIGN CHOICE, safe (log 13). -/
def resetWires : Wires := { em := 0, es := 0, d := 0, y := 0 }

/-- The host has read nothing yet. DESIGN CHOICE, safe (log 11). -/
def resetHost : HostView := { status := 0, status2 := 0, occ := 0, mbData := 0, taken := false, record := none }

/-- A configured block right after reset (10_state.md R49, 70 R270). -/
def State.resetOf (c : Config) : State :=
  { cfg := c, inp := resetInput, disc := resetDisc c, pll := resetPll, frm := resetFramer, dec := resetDecoder
    trace := noTrace, wires := resetWires, host := resetHost, pending := [] }

/-- The machine right after reset: the reference instance (00_scope.md R7; DESIGN CHOICE, unsafe, log 7) at the
reset values of 10_state.md R49. -/
def State.reset : State := State.resetOf Config.reference

/-! ## Updates, one per part of the state -/

/-- Replace the sample input stage. -/
def State.setInp (s : State) (v : InputStage) : State := { s with inp := v }
/-- Replace the discriminator's state. -/
def State.setDisc (s : State) (v : DiscState) : State := { s with disc := v }
/-- Replace the PLL. -/
def State.setPll (s : State) (v : Pll) : State := { s with pll := v }
/-- Replace the framer. -/
def State.setFrm (s : State) (v : Framer) : State := { s with frm := v }
/-- Replace the decoder. -/
def State.setDec (s : State) (v : Decoder) : State := { s with dec := v }
/-- Replace the trace outputs. -/
def State.setTrace (s : State) (v : Trace) : State := { s with trace := v }
/-- Replace the discriminator's results. -/
def State.setWires (s : State) (v : Wires) : State := { s with wires := v }
/-- Replace what the host read. -/
def State.setHost (s : State) (v : HostView) : State := { s with host := v }
/-- Replace the operations still to be performed. -/
def State.setPending (s : State) (v : List OpWord) : State := { s with pending := v }

end Sys2Proof.Machine
end

