-- ==== Sys2Proof/Machine/Operands.lean ====
section
/-! DEFINITION. The pseudocode primitives of 00_scope.md R13 and the forms in which an operand reaches an operation:
a signed sample (30_encoding.md R98), a line frame as bits in time order (R80), a byte assembled bit by bit (R84). -/

namespace Sys2Proof.Machine

/-- `Opp(a, b)`: strictly opposite signs (00_scope.md R13). -/
def opp (a b : Int) : Bool := (decide (0 < a) && decide (b < 0)) || (decide (a < 0) && decide (0 < b))

/-- `clamp(v, lo, hi)` (00_scope.md R13). -/
def clamp (v lo hi : Int) : Int := if v < lo then lo else if hi < v then hi else v

/-- `a >>a k`: floor division by `2^k` (00_scope.md R13). -/
def asr (a : Int) (k : Nat) : Int := a / 2 ^ k

/-- `sext_N(v)`: the low `n` bits of `v` as a signed two's-complement value (00_scope.md R13). -/
def sext (n : Nat) (v : Int) : Int := v.bmod (2 ^ n)

/-- `sext_16` of a sample word (30_encoding.md R98). -/
def sampleValue (x : Sample) : Int := x.toInt

/-- The operand of HIST.SHIFT in a word: a signed value of `YW` bits (10_state.md R26), the word's low `YW` bits.
DESIGN CHOICE, unsafe (log 21): the bits above them are not read. -/
def yValue (c : Config) (y : YWord) : Int := sext c.YW y.toInt

/-- `sum over k of xs[k] * C[k]` (41 R136). -/
def correlate : List Sample → List Int → Int
  | x :: xs, c :: cs => sampleValue x * c + correlate xs cs
  | [], _ => 0
  | _ :: _, [] => 0

/-- The bits of a line frame in time order: start 0, eight data bits least significant first, `NSTOP` ones
(30_encoding.md R80, R101 `FRAME(v)`). -/
def frameBits (nstop : Nat) (v : Byte) : List Bool :=
  [false, v.getLsbD 0, v.getLsbD 1, v.getLsbD 2, v.getLsbD 3, v.getLsbD 4, v.getLsbD 5, v.getLsbD 6, v.getLsbD 7] ++
    List.replicate nstop true

/-- `(b << 7) | (sr >> 1)`: the new bit enters at bit 7 (43 R173, 30_encoding.md R84). -/
def shiftIn (b : Bool) (sr : Byte) : Byte := (if b then 0x80 else 0x00) ||| (sr >>> 1)

/-- Bit `b` latched at the discriminated value `x0`: 1 exactly when it is positive (42 R157). -/
def polarity (x0 : Int) : Bool := decide (0 < x0)

end Sys2Proof.Machine
end

