-- ==== Sys2Proof/Machine/Flags.lean ====
section
/-! DEFINITION. The flags, predicates and status words computed from the state: terminal states and outcome codes
(10_state.md R33, 30_encoding.md R96), the gate of POP (40 R112), TRANS (42 R152), the decoder's tests (44 R206,
R209), STATUS, STATUS2 and OCC (10_state.md R45 to R47). -/

namespace Sys2Proof.Machine

/-! ## Codes -/

/-- The code of `fs` (10_state.md R29). -/
def fsCode : FState → BitVec 2
  | .idle => 0 | .start => 1 | .data => 2 | .stop => 3

/-- The code of `ds` (10_state.md R33). -/
def dsCode : DState → BitVec 4
  | .mt => 0 | .ml => 1 | .dt => 2 | .dl => 3 | .data => 4 | .ck => 5
  | .complete => 6 | .ckfail => 7 | .unknown => 8 | .malformed => 9

/-- The code of `fmt` (10_state.md R34). -/
def fmtCode : Fmt → BitVec 2
  | .none => 0 | .sdmf => 1 | .mdmf => 2

/-- `terminal(ds)` (10_state.md R33, 44 R191). -/
def terminal : DState → Bool
  | .complete | .ckfail | .unknown | .malformed => true
  | .mt | .ml | .dt | .dl | .data | .ck => false

/-- The outcome code (30_encoding.md R96, 60_exceptions.md R240). -/
def outcomeCode : DState → BitVec 3
  | .mt | .ml | .dt | .dl | .data | .ck => 0
  | .complete => 1
  | .unknown => 2
  | .ckfail => 3
  | .malformed => 4

/-! ## Input stage -/

/-- `occ` (10_state.md R21). -/
def occ (s : State) : Nat := s.inp.fifo.length

/-- `s_ready` (30_encoding.md R97). -/
def sReady (s : State) : Bool := decide (occ s < s.cfg.FIFO_DEPTH)

/-- The window gate: POP is enabled (40 R112). -/
def popEnabled (s : State) : Bool :=
  !terminal s.dec.ds && decide (1 ≤ occ s) && (s.inp.inv || decide (s.cfg.GATE_WINDOW ≤ occ s))

/-- The `STARVED` condition (10_state.md R45, 60_exceptions.md R245). -/
def starved (s : State) : Bool := !terminal s.dec.ds && !popEnabled s

/-- The `FULL` condition (10_state.md R45). -/
def fifoFull (s : State) : Bool := decide (occ s = s.cfg.FIFO_DEPTH)

/-! ## PLL -/

/-- `TRANS()`, evaluated after HIST.SHIFT (42 R152). -/
def trans (p : Pll) : Bool := opp p.x0 p.x1 || (decide (p.x1 = 0) && opp p.x0 p.x2)

/-- A start transition, mark to space (42 R154). -/
def startTransition (p : Pll) : Bool := trans p && decide (p.x0 < 0)

/-- The accumulator has reached the bit centre (42 R157). -/
def latchDue (c : Config) (p : Pll) : Bool := decide ((c.PLLISPB2 : Int) ≤ p.icont)

/-! ## Decoder -/

/-- The message buffer is full (44 R193). -/
def bufferFull (c : Config) (d : Decoder) : Bool := decide (d.msglen.toNat = c.MSG_MAX)

/-- The completion test of FIELDDONE (44 R206). -/
def messageDone (d : Decoder) : Bool :=
  (d.fmt == .mdmf && d.nameseen && d.numseen) || (d.fmt == .sdmf && d.numseen)

/-- `v = (256 - cks) mod 256` (44 R209). -/
def checksumValid (cks v : Byte) : Bool := decide (v.toNat = (256 - cks.toNat) % 256)

/-- `mlen != msglen - 3`, `msglen` counting the checksum byte already; mathematical integers (44 R209, 00_scope.md
R12; DEDUCED, log 16). -/
def lengthDiffers (d : Decoder) : Bool := decide ((d.mlen.toNat : Int) ≠ (d.msglen.toNat : Int) - 3)

/-! ## Status words -/

/-- A flag as one bit of a status word. -/
def flagBit (b : Bool) : BitVec 1 := BitVec.ofBool b

/-- STATUS (10_state.md R45), bits 31 down to 0. -/
def statusWord (s : State) : BitVec 32 :=
  (0 : BitVec 5) ++ flagBit (fifoFull s) ++ flagBit (starved s) ++ s.dec.msglen ++ flagBit s.inp.inv ++
    flagBit s.dec.lenbad ++ flagBit s.dec.numseen ++ flagBit s.dec.nameseen ++ fmtCode s.dec.fmt ++
    fsCode s.frm.fs ++ dsCode s.dec.ds ++ outcomeCode s.dec.ds ++ flagBit (terminal s.dec.ds)

/-- STATUS2 (10_state.md R46), bits 31 down to 0. -/
def status2Word (s : State) : BitVec 32 :=
  (0 : BitVec 2) ++ s.frm.ns ++ s.frm.nb ++ s.dec.cnt ++ s.dec.mlen ++ s.dec.cks

/-- The `done` output (60_exceptions.md R250). -/
def doneOut (s : State) : Bool := terminal s.dec.ds

end Sys2Proof.Machine
end

