-- ==== Sys2Proof/Machine/Ops.lean ====
section
/-! DEFINITION. The shared operations: reading and writing the message buffer (20_memory.md R61, R62), taking a
terminal outcome (60_exceptions.md R246) and leaving it by a new session (R249, 40 R118), the trace outputs
(30_encoding.md R99), and an operation that its condition selects or not (30_encoding.md R100). -/

namespace Sys2Proof.Machine

/-- What a meaning answers. -/
abbrev Result := Host.Outcome State Fault Refusal

/-! ## The message buffer -/

/-- The byte held at an index, listed or not. -/
def Memory.read : Memory → Nat → Byte
  | [], _ => memDefault
  | (b, u) :: m, a => if b = a then u else Memory.read m a

/-- Store a byte, keeping the canonical form: an entry equal to the default is not listed. -/
def Memory.write : Memory → Nat → Byte → Memory
  | [], a, v => if v = memDefault then [] else [(a, v)]
  | (b, u) :: m, a, v =>
    if a < b then (if v = memDefault then (b, u) :: m else (a, v) :: (b, u) :: m)
    else if a = b then (if v = memDefault then m else (a, v) :: m)
    else (b, u) :: Memory.write m a v

/-- `MemRead(msgbuf, a, 1)`: the byte at `a` when `a < msglen`, else 0 (20_memory.md R62). -/
def memRead (d : Decoder) (a : Nat) : Byte :=
  if a < d.msglen.toNat then Memory.read d.msgbuf a else 0

/-- The bytes `0 .. msglen-1` in order, as the host reads them with RDMB (45 R220). -/
def messageBytes (d : Decoder) : List Byte := (List.range d.msglen.toNat).map (memRead d)

/-! ## Terminal outcomes and sessions -/

/-- The terminal outcomes (60_exceptions.md R240). -/
inductive TerminalOutcome where
  | complete | unknownFormat | checksumFailed | malformedMessage
  deriving DecidableEq, Repr

/-- The terminal code of an outcome (60_exceptions.md R240). -/
def terminalCode : TerminalOutcome → DState
  | .complete => .complete
  | .unknownFormat => .unknown
  | .checksumFailed => .ckfail
  | .malformedMessage => .malformed

/-- `raise <Outcome>`: `ds` takes the terminal code and nothing else is written; from then on `terminal(ds)` holds
and POP is disabled. No address is saved, no mode changes, no vector is fetched (60_exceptions.md R246). -/
def raise (o : TerminalOutcome) (d : Decoder) : Decoder := { d with ds := terminalCode o }

/-- The only exit from a terminal outcome: a new session. Every element of R20 takes its value of R49; the
parameters are not state (R42), and what the host has read and is going to do is the host's. START and `rst` both
(40 R118, 70 R270, 60_exceptions.md R249). -/
def newSession (s : State) : State :=
  { State.resetOf s.cfg with host := s.host, pending := s.pending }

/-! ## Trace outputs and selection -/

/-- No bit and no byte on the trace outputs: no POP completed a latch or a byte in this operation (R99). -/
def quiet (s : State) : State := s.setTrace noTrace

/-- `emit bit(b)` (30_encoding.md R99). -/
def emitBit (b : Bool) (s : State) : State := s.setTrace { s.trace with bit := some b }

/-- `emit byte(v)` (30_encoding.md R99). -/
def emitByte (v : Byte) (s : State) : State := s.setTrace { s.trace with byte := some v }

/-- An operation is performed when its selecting condition holds (30_encoding.md R100); presented while it does not
hold, it is not performed and nothing changes. DESIGN CHOICE, unsafe (log 4). The condition is the operation's own;
that it stands inside a POP whose gate is open is not tested (log 24). -/
def performIf (selected : Bool) (after before : State) : Result :=
  .next (if selected then after else before)

end Sys2Proof.Machine
end

