-- ==== Sys2Proof/Machine/Extract.lean ====
section
/-! DEFINITION. The host's side: EXTRACT (45_host_field_extractor.md) and the feed result (40 R121). -/

namespace Sys2Proof.Machine

/-- The ASCII codes of characters (00_scope.md R12). -/
def ascii (cs : List Char) : List Byte := cs.map fun ch => BitVec.ofNat 8 ch.toNat

/-- `MONTHNAME[1 .. 12]` (45 R223). -/
def monthNames : List (List Byte) :=
  [ascii ['J', 'a', 'n', 'u', 'a', 'r', 'y'], ascii ['F', 'e', 'b', 'r', 'u', 'a', 'r', 'y'],
   ascii ['M', 'a', 'r', 'c', 'h'], ascii ['A', 'p', 'r', 'i', 'l'], ascii ['M', 'a', 'y'],
   ascii ['J', 'u', 'n', 'e'], ascii ['J', 'u', 'l', 'y'], ascii ['A', 'u', 'g', 'u', 's', 't'],
   ascii ['S', 'e', 'p', 't', 'e', 'm', 'b', 'e', 'r'], ascii ['O', 'c', 't', 'o', 'b', 'e', 'r'],
   ascii ['N', 'o', 'v', 'e', 'm', 'b', 'e', 'r'], ascii ['D', 'e', 'c', 'e', 'm', 'b', 'e', 'r']]

/-- `'0' .. '9'`. -/
def isDigit (v : Byte) : Bool := decide (0x30 ≤ v.toNat) && decide (v.toNat ≤ 0x39)

/-- DATETIME(body, l): eight digits `MMDDhhmm`, further bytes ignored, only the month checked (45 R223). -/
def dateTime (body : List Byte) : Option (List Byte × List Byte) :=
  match body with
  | m0 :: m1 :: d0 :: d1 :: h0 :: h1 :: n0 :: n1 :: _ =>
    if isDigit m0 && isDigit m1 then
      let mo := (m0.toNat - 0x30) * 10 + (m1.toNat - 0x30)
      if 1 ≤ mo ∧ mo ≤ 12 then
        some (monthNames.getD (mo - 1) [] ++ ascii [' '] ++ [d0, d1],
          [h0, h1] ++ ascii [' ', 'h', 'r', ' ', ':', ' '] ++ [n0, n1] ++ ascii [' ', 'm', 'i', 'n'])
      else none
    else none
  | _ => none

/-- TEXT(body, l): at most `FIELD_MAX` bytes (45 R224). -/
def fieldText (fieldMax : Nat) (body : List Byte) : List Byte := body.take fieldMax

/-- One group of type `t` with this body goes to its field; the last occurrence wins (45 R221, R226). -/
def assignField (fieldMax : Nat) (t : Byte) (body : List Byte) (r : CidRecord) : Option CidRecord :=
  if t = 0x01 then (dateTime body).map fun dt => { r with date := dt.1, time := dt.2 }
  else if t = 0x02 then some { r with number := fieldText fieldMax body }
  else if t = 0x04 then some { r with number := [] }
  else if t = 0x07 then some { r with name := fieldText fieldMax body }
  else if t = 0x08 then some { r with name := [] }
  else none

/-- The walk over the groups between the length byte and the checksum byte (45 R221). `fuel` bounds the number of
groups; the number of bytes is enough. -/
def walkGroups (fieldMax : Nat) : Nat → List Byte → CidRecord → Option CidRecord
  | _, [], r => some r
  | 0, _ :: _, _ => none
  | _ + 1, [_], _ => none
  | fuel + 1, t :: l :: rest, r =>
    if rest.length < l.toNat then none
    else
      match assignField fieldMax t (rest.take l.toNat) r with
      | none => none
      | some r' => walkGroups fieldMax fuel (rest.drop l.toNat) r'

/-- The record with four empty strings (45 R221). -/
def emptyRecord : CidRecord := { date := [], time := [], name := [], number := [] }

/-- EXTRACT(m, n), a total function of the bytes (45 R220, R221). -/
def extractBytes (fieldMax : Nat) (m : List Byte) : Extracted :=
  if m.length < 3 then .malformedMessage
  else
    match walkGroups fieldMax m.length ((m.drop 2).take (m.length - 3)) emptyRecord with
    | some r => .record r
    | none => .malformedMessage

/-- EXTRACT: the host's function of the bytes it reads with RDMB; the block is not touched (45 R220; log 19). -/
def execExtract (s : State) : Result :=
  .next (quiet (s.setHost { s.host with record := some (extractBytes s.cfg.FIELD_MAX (messageBytes s.dec)) }))

/-- The feed call's return value (40 R110, R121). -/
inductive FeedResult where
  | needMoreSamples
  | complete (r : CidRecord)
  | unknownFormat
  | checksumFailed
  | malformedMessage
  deriving DecidableEq, Repr

/-- What the host makes of RDST, RDMB and EXTRACT once the core is quiescent (40 R121). -/
def feedResult (s : State) : FeedResult :=
  match s.dec.ds with
  | .mt | .ml | .dt | .dl | .data | .ck => .needMoreSamples
  | .complete =>
    match extractBytes s.cfg.FIELD_MAX (messageBytes s.dec) with
    | .record r => .complete r
    | .malformedMessage => .malformedMessage
  | .unknown => .unknownFormat
  | .ckfail => .checksumFailed
  | .malformed => .malformedMessage

end Sys2Proof.Machine
end

