-- ==== Sys2Proof/Machine/Host.lean ====
section
/-! DEFINITION. The host's operations START, PUSH, RDST and RDMB (40_sample_input_stage.md R111, R118 to R120). -/

namespace Sys2Proof.Machine

/-- START: every element of R20 takes its value of R49 (40 R118). Always enabled. -/
def execStart (s : State) : Result := .next (newSession s)

/-- The FIFO after a sample is appended at the tail (40 R111). -/
def pushSample (x : Sample) (s : State) : State :=
  s.setInp { s.inp with fifo := s.inp.fifo ++ [x] }

/-- PUSH(x): taken iff `occ < FIFO_DEPTH`; otherwise the sample is not accepted and nothing of the block changes
(40 R111, 60_exceptions.md R251). The host sees which in `taken` (log 11, log 15). -/
def execPush (x : Sample) (s : State) : Result :=
  .next (quiet ((if sReady s then pushSample x s else s).setHost { s.host with taken := sReady s }))

/-- RDST: the host reads STATUS, STATUS2 and OCC; no side effect on the block (40 R119). -/
def execRdst (s : State) : Result :=
  .next (quiet (s.setHost { s.host with status := statusWord s, status2 := status2Word s, occ := occ s }))

/-- RDMB(a): the host reads `MemRead(msgbuf, a, 1)`; no side effect on the block (40 R120). -/
def execRdmb (a : MbAddr) (s : State) : Result :=
  .next (quiet (s.setHost { s.host with mbData := memRead s.dec a.toNat }))

end Sys2Proof.Machine
end

