-- ==== Sys2Proof/Machine/Discriminator.lean ====
section
/-! DEFINITION. The discriminator (41_discriminator.md): DISC.STEP, and the parts MF.MARK, MF.SPACE, DIFF and POSTF
of `DISC_REF`. -/

namespace Sys2Proof.Machine

/-- `I*I + Q*Q` with both correlations scaled by `>>a 10` (41 R136, R137; log 17 on the rule's bound). -/
def toneEnergy (ci cq : List Int) (xs : List Sample) : Int :=
  asr (correlate xs ci) 10 * asr (correlate xs ci) 10 + asr (correlate xs cq) 10 * asr (correlate xs cq) 10

/-- `[new] ++ line[0 .. n-2]`: shift in, drop the oldest (41 R139, R140). -/
def shiftLine {α : Type} (n : Nat) (new : α) (line : List α) : List α := new :: line.take (n - 1)

/-- The sum of a delay line (41 R139). -/
def lineSum : List Int → Int
  | [] => 0
  | d :: ds => d + lineSum ds

/-- The configured discriminator is `DISC_REF`, of which MF.MARK, MF.SPACE, DIFF and POSTF are the parts (R100). -/
def isRef (c : Config) : Bool :=
  match c.DISC with
  | .ref _ => true
  | .ident => false
  | .other _ _ => false

/-- The coefficient ROMs, of `DISC_REF` only. -/
def romsOf (c : Config) : Roms :=
  match c.DISC with
  | .ref r => r
  | .ident => { CM_I := [], CM_Q := [], CS_I := [], CS_Q := [] }
  | .other _ _ => { CM_I := [], CM_Q := [], CS_I := [], CS_Q := [] }

/-- The new sample enters `xs` (41 R140). -/
def shiftSample (x : Sample) (s : State) : State :=
  s.setDisc { s.disc with xs := shiftLine s.cfg.W x s.disc.xs }

/-- `EM` (41 R136). -/
def runMfMark (s : State) : State :=
  s.setWires { s.wires with em := toneEnergy (romsOf s.cfg).CM_I (romsOf s.cfg).CM_Q s.disc.xs }

/-- `ES` (41 R137). -/
def runMfSpace (s : State) : State :=
  s.setWires { s.wires with es := toneEnergy (romsOf s.cfg).CS_I (romsOf s.cfg).CS_Q s.disc.xs }

/-- `d <- EM - ES` (41 R138). -/
def runDiff (s : State) : State := s.setWires { s.wires with d := s.wires.em - s.wires.es }

/-- The delay line takes `d`, `y` is its sum (41 R139). -/
def runPostf (s : State) : State :=
  (s.setDisc { s.disc with dl := shiftLine s.cfg.L s.wires.d s.disc.dl }).setWires
    { s.wires with y := lineSum (shiftLine s.cfg.L s.wires.d s.disc.dl) }

/-- `DISC_REF.step` (41 R140). -/
def refStep (x : Sample) (s : State) : State :=
  runPostf (runDiff (runMfSpace (runMfMark (shiftSample x s))))

/-- `DISC_ID` (41 R142). -/
def identStep (x : Sample) (s : State) : State := s.setWires { s.wires with y := sampleValue x }

/-- An unknown discriminator: its state and its output are whatever that machine makes of them, the output a signed
value of its `YW` bits (41 R130, log 9). -/
def otherStep (n width : Nat) (x : Sample) (s : State) : State :=
  (s.setDisc { s.disc with ext := (Config.otherStep n s.disc.ext x).1 }).setWires
    { s.wires with y := sext width (Config.otherStep n s.disc.ext x).2 }

/-- DISC.STEP(x): `(dstate, y) <- DISC.step(dstate, x)` (41 R131). -/
def runDiscStep (x : Sample) (s : State) : State :=
  match s.cfg.DISC with
  | .ref _ => refStep x s
  | .ident => identStep x s
  | .other n width => otherStep n width x s

/-- DISC.STEP(x) (41 R131); on its own in every state, also a frozen core's (log 24). -/
def execDiscStep (x : Sample) (s : State) : Result := .next (runDiscStep x s)

/-- MF.MARK, part of `DISC_REF` (41 R136). -/
def execMfMark (s : State) : Result := performIf (isRef s.cfg) (runMfMark s) s

/-- MF.SPACE, part of `DISC_REF` (41 R137). -/
def execMfSpace (s : State) : Result := performIf (isRef s.cfg) (runMfSpace s) s

/-- DIFF, part of `DISC_REF` (41 R138). -/
def execDiff (s : State) : Result := performIf (isRef s.cfg) (runDiff s) s

/-- POSTF, part of `DISC_REF` (41 R139). -/
def execPostf (s : State) : Result := performIf (isRef s.cfg) (runPostf s) s

end Sys2Proof.Machine
end

