-- ==== Sys2Proof/Machine/Decoder.lean ====
section
/-! DEFINITION. The message decoder (44_message_decoder.md): DECODER(v), APPEND, OVF and the operations of the
source's table (R194). The functions on `Decoder` are the rules' pseudocode, to be run after APPEND; an operation of
the table is APPEND and then its own pseudocode (R190, R192; DEDUCED, log 5). -/

namespace Sys2Proof.Machine

/-! ## The rules' pseudocode -/

/-- APPEND(v): the byte is stored at `msglen` and counted, and summed unless it is the checksum byte (44 R192). -/
def appendByte (v : Byte) (d : Decoder) : Decoder :=
  { d with
    msgbuf := Memory.write d.msgbuf d.msglen.toNat v
    msglen := d.msglen + 1
    cks := if d.ds = .ck then d.cks else d.cks + v }

/-- OVF: nothing is stored or summed (44 R193). -/
def ovfRaise (d : Decoder) : Decoder := raise .malformedMessage d

/-- MT.MDMF after APPEND (44 R195). -/
def markMdmf (d : Decoder) : Decoder := { d with fmt := .mdmf, ds := .ml }

/-- MT.SDMF after APPEND (44 R196). -/
def markSdmf (d : Decoder) : Decoder := { d with fmt := .sdmf, ds := .ml }

/-- MT.OTHER after APPEND (44 R197). -/
def unknownType (d : Decoder) : Decoder := raise .unknownFormat d

/-- ML.ANY after APPEND (44 R198). -/
def recordLength (v : Byte) (d : Decoder) : Decoder := { d with mlen := v, ds := .dt }

/-- DT.DATE after APPEND (44 R199). -/
def dateGroup (d : Decoder) : Decoder := { d with ds := .dl }

/-- DT.NUMBER after APPEND (44 R200). -/
def numberGroup (d : Decoder) : Decoder := { d with numseen := true, ds := .dl }

/-- DT.NONUMBER after APPEND (44 R201). -/
def noNumberGroup (d : Decoder) : Decoder := { d with numseen := true, ds := .dl }

/-- DT.NAME after APPEND (44 R202). -/
def nameGroup (d : Decoder) : Decoder := { d with nameseen := true, ds := .dl }

/-- DT.NONAME after APPEND (44 R203). -/
def noNameGroup (d : Decoder) : Decoder := { d with nameseen := true, ds := .dl }

/-- DT.OTHER after APPEND (44 R204). -/
def unknownGroup (d : Decoder) : Decoder := raise .unknownFormat d

/-- FIELDDONE (44 R206). -/
def fieldDone (d : Decoder) : Decoder := { d with ds := if messageDone d then .ck else .dt }

/-- DL.ANY after APPEND: an empty field is complete at once (44 R205). -/
def fieldLength (v : Byte) (d : Decoder) : Decoder :=
  if v = 0 then fieldDone { d with cnt := v } else { d with cnt := v, ds := .data }

/-- DATA.ANY after APPEND (44 R207). -/
def countData (d : Decoder) : Decoder :=
  if d.cnt - 1 = 0 then fieldDone { d with cnt := d.cnt - 1 } else { d with cnt := d.cnt - 1 }

/-- CK.ANY after APPEND (44 R209). -/
def judge (v : Byte) (d : Decoder) : Decoder :=
  if checksumValid d.cks v then raise .complete { d with lenbad := lengthDiffers d }
  else raise .checksumFailed { d with lenbad := lengthDiffers d }

/-! ## DECODER(v) -/

/-- The operation of the state at entry `st`, after APPEND (44 R190). -/
def afterAppend (st : DState) (v : Byte) (d : Decoder) : Decoder :=
  match st with
  | .mt => if v = 0x80 then markMdmf d else if v = 0x04 then markSdmf d else unknownType d
  | .ml => recordLength v d
  | .dt =>
    if v = 0x01 then dateGroup d
    else if v = 0x02 then numberGroup d else if v = 0x04 then noNumberGroup d
    else if v = 0x07 then nameGroup d else if v = 0x08 then noNameGroup d
    else unknownGroup d
  | .dl => fieldLength v d
  | .data => countData d
  | .ck => judge v d
  | .complete | .ckfail | .unknown | .malformed => d

/-- DECODER(v) (44 R190): nothing in a terminal state (R191), OVF on a full buffer (R193), else APPEND and the
operation of the state. -/
def decodeByteEvent (c : Config) (v : Byte) (d : Decoder) : Decoder :=
  if terminal d.ds then d
  else if bufferFull c d then ovfRaise d
  else afterAppend d.ds v (appendByte v d)

/-- DECODER over a sequence of bytes, first byte first (95_test_vectors.md section 0). -/
def decodeBytes (c : Config) : List Byte → Decoder → Decoder
  | [], d => d
  | v :: vs, d => decodeBytes c vs (decodeByteEvent c v d)

/-! ## The operations -/

/-- A byte is taken by the rows of state `st`: `ds` is `st`, not terminal, and the buffer is not full (44 R190). -/
def takesByte (st : DState) (s : State) : Bool :=
  !terminal s.dec.ds && !bufferFull s.cfg s.dec && s.dec.ds == st

/-- APPEND(v) and then a row's pseudocode, when the row is selected. -/
def decoderRow (st : DState) (v : Byte) (body : Decoder → Decoder) (s : State) : Result :=
  performIf (takesByte st s) (s.setDec (body (appendByte v s.dec))) s

/-- OVF, selected by any byte in a non-terminal state when `msglen = MSG_MAX`; the byte is not kept (44 R193). -/
def execOvf (_v : Byte) (s : State) : Result :=
  performIf (!terminal s.dec.ds && bufferFull s.cfg s.dec) (s.setDec (ovfRaise s.dec)) s

/-- APPEND(v) on its own, selected in a non-terminal state when `msglen < MSG_MAX` (44 R192). -/
def execAppend (v : Byte) (s : State) : Result :=
  performIf (!terminal s.dec.ds && !bufferFull s.cfg s.dec) (s.setDec (appendByte v s.dec)) s

/-- MT.MDMF (44 R195). -/
def execMtMdmf (s : State) : Result := decoderRow .mt 0x80 markMdmf s
/-- MT.SDMF (44 R196). -/
def execMtSdmf (s : State) : Result := decoderRow .mt 0x04 markSdmf s
/-- MT.OTHER (44 R197). -/
def execMtOther (v : Byte) (s : State) : Result := decoderRow .mt v unknownType s
/-- ML.ANY (44 R198). -/
def execMlAny (v : Byte) (s : State) : Result := decoderRow .ml v (recordLength v) s
/-- DT.DATE (44 R199). -/
def execDtDate (s : State) : Result := decoderRow .dt 0x01 dateGroup s
/-- DT.NUMBER (44 R200). -/
def execDtNumber (s : State) : Result := decoderRow .dt 0x02 numberGroup s
/-- DT.NONUMBER (44 R201). -/
def execDtNonumber (s : State) : Result := decoderRow .dt 0x04 noNumberGroup s
/-- DT.NAME (44 R202). -/
def execDtName (s : State) : Result := decoderRow .dt 0x07 nameGroup s
/-- DT.NONAME (44 R203). -/
def execDtNoname (s : State) : Result := decoderRow .dt 0x08 noNameGroup s
/-- DT.OTHER (44 R204). -/
def execDtOther (v : Byte) (s : State) : Result := decoderRow .dt v unknownGroup s
/-- DL.ANY (44 R205). -/
def execDlAny (v : Byte) (s : State) : Result := decoderRow .dl v (fieldLength v) s
/-- DATA.ANY (44 R207). -/
def execDataAny (v : Byte) (s : State) : Result := decoderRow .data v countData s
/-- CK.ANY (44 R209). -/
def execCkAny (v : Byte) (s : State) : Result := decoderRow .ck v (judge v) s

end Sys2Proof.Machine
end

