-- ==== Sys2Proof/Machine/Framer.lean ====
section
/-! DEFINITION. The byte framer (43_byte_framer.md): FRAMER(b), its five operations, and FRAME(v), the line frame
(30_encoding.md R80) as the framer receives it. Presented on its own, outside a POP, a framer row tests `fs` and
neither POP's gate nor `terminal(ds)`: DESIGN CHOICE, unsafe (log 24). -/

namespace Sys2Proof.Machine

/-- DECODER(v) on the machine (43 R175, 44 R190). -/
def runDecoder (v : Byte) (s : State) : State := s.setDec (decodeByteEvent s.cfg v s.dec)

/-- `fs <- FS_DATA ; nb <- 0 ; sr <- 0` (43 R171). -/
def runFrStartOk (s : State) : State := s.setFrm { s.frm with fs := .data, nb := 0, sr := 0 }

/-- `fs <- FS_IDLE` (43 R172). -/
def runFrStartFalse (s : State) : State := s.setFrm { s.frm with fs := .idle }

/-- The bit enters at bit 7 of `sr`; the eighth opens the stop bits (43 R173). -/
def runFrData (b : Bool) (s : State) : State :=
  if s.frm.nb + 1 = 8 then
    s.setFrm { s.frm with sr := shiftIn b s.frm.sr, nb := s.frm.nb + 1, fs := .stop, ns := 0 }
  else s.setFrm { s.frm with sr := shiftIn b s.frm.sr, nb := s.frm.nb + 1 }

/-- `ns` counts; at the last stop bit the byte is emitted and decoded (43 R175). -/
def runFrStopOk (s : State) : State :=
  if (s.frm.ns + 1).toNat = s.cfg.NSTOP then
    runDecoder s.frm.sr (emitByte s.frm.sr (s.setFrm { s.frm with ns := s.frm.ns + 1, fs := .idle }))
  else s.setFrm { s.frm with ns := s.frm.ns + 1 }

/-- `fs <- FS_IDLE`; the partial frame is discarded (43 R176). -/
def runFrStopBad (s : State) : State := s.setFrm { s.frm with fs := .idle }

/-- FRAMER(b) (43 R170); never entered in `FS_IDLE`. -/
def runFramer (b : Bool) (s : State) : State :=
  match s.frm.fs with
  | .idle => s
  | .start => if b then runFrStartFalse s else runFrStartOk s
  | .data => runFrData b s
  | .stop => if b then runFrStopOk s else runFrStopBad s

/-- FR.START.OK (43 R171). -/
def execFrStartOk (s : State) : Result := performIf (s.frm.fs == .start) (runFrStartOk s) s
/-- FR.START.FALSE (43 R172). -/
def execFrStartFalse (s : State) : Result := performIf (s.frm.fs == .start) (runFrStartFalse s) s
/-- FR.DATA (43 R173). -/
def execFrData (b : Bool) (s : State) : Result := performIf (s.frm.fs == .data) (runFrData b s) s
/-- FR.STOP.OK (43 R175). -/
def execFrStopOk (s : State) : Result := performIf (s.frm.fs == .stop) (runFrStopOk s) s
/-- FR.STOP.BAD (43 R176). -/
def execFrStopBad (s : State) : Result := performIf (s.frm.fs == .stop) (runFrStopBad s) s

/-! ## FRAME(v): the bits of a line frame, as the framer receives them -/

/-- One bit cell of the line, `prev` the level before it. A frozen core takes none (60_exceptions.md R246); in
`FS_IDLE` only a fall from mark to space is a start transition (42 R154), and the cell is then a start bit at its
centre; otherwise the bit goes to FRAMER. DEDUCED, unsafe (log 6). -/
def lineBit (prev b : Bool) (s : State) : State :=
  if terminal s.dec.ds then s
  else if s.frm.fs = .idle then
    (if prev && !b then runFramer b (s.setFrm { s.frm with fs := .start }) else s)
  else runFramer b s

/-- Bit cells in time order. -/
def lineBits (prev : Bool) : List Bool → State → State
  | [], s => s
  | b :: bs, s => lineBits b bs (lineBit prev b s)

/-- FRAME(v) on the line: the line is at mark before it, idle or the previous frame's stop bit (30_encoding.md R80,
R82). Bit level: the PLL, the discriminator and the FIFO, which work on samples, are not touched, nor is `inv`, which
only POP and START write (10_state.md R22): DEDUCED, unsafe (log 6). The trace outputs are not held from the
operation before (R42); they then show the byte that the frame made the framer emit, if any, and no bit, since no
PLL.LATCH is performed: DESIGN CHOICE, safe (log 12), R99 speaks of POPs only. -/
def execFrame (v : Byte) (s : State) : Result :=
  .next (lineBits true (frameBits s.cfg.NSTOP v) (quiet s))

end Sys2Proof.Machine
end

