-- ==== Sys2Proof/Machine/Pll.lean ====
section
/-! DEFINITION. The bit-timing PLL (42_pll_bit_timing.md): HIST.SHIFT, PLL.HOLD, PLL.SNAP, PLL.NUDGE, PLL.ADV,
PLL.LATCH and PLL.ROUND. Presented on its own, outside a POP, an operation tests its own selecting condition and
neither POP's gate nor `terminal(ds)`: DESIGN CHOICE, unsafe (log 24). -/

namespace Sys2Proof.Machine

/-- `x2 <- x1 ; x1 <- x0 ; x0 <- y` (42 R151). -/
def runHistShift (y : Int) (s : State) : State :=
  s.setPll { s.pll with x0 := y, x1 := s.pll.x0, x2 := s.pll.x1 }

/-- PLL.HOLD: nothing (42 R153). -/
def runPllHold (s : State) : State := s

/-- `icont <- 0 ; rcnt <- 0 ; fs <- FS_START` (42 R154). -/
def runPllSnap (s : State) : State :=
  (s.setPll { s.pll with icont := 0, rcnt := 0 }).setFrm { s.frm with fs := .start }

/-- `icont <- icont - clamp(icont, -PLLIDS, PLLIDS)` (42 R155). -/
def runPllNudge (s : State) : State :=
  s.setPll { s.pll with icont := s.pll.icont - clamp s.pll.icont (-(s.cfg.PLLIDS : Int)) s.cfg.PLLIDS }

/-- `icont <- icont + PLLINC` (42 R156). -/
def runPllAdv (s : State) : State := s.setPll { s.pll with icont := s.pll.icont + s.cfg.PLLINC }

/-- The periodic rounding correction (42 R158). -/
def roundPll (c : Config) (p : Pll) : Pll :=
  if c.PLL_ROUND_PERIOD ≤ p.rcnt + c.PLL_ROUND_OFF then
    { p with rcnt := p.rcnt + c.PLL_ROUND_OFF - c.PLL_ROUND_PERIOD, icont := p.icont - 1 }
  else { p with rcnt := p.rcnt + c.PLL_ROUND_OFF }

/-- PLL.ROUND (42 R158). -/
def runPllRound (s : State) : State := s.setPll (roundPll s.cfg s.pll)

/-- PLL.LATCH: the bit is returned on the trace (`emit bit`, 40 R113), the cycle is subtracted, then PLL.ROUND
(42 R157). -/
def runPllLatch (s : State) : State :=
  emitBit (polarity s.pll.x0) (runPllRound (s.setPll { s.pll with icont := s.pll.icont - s.cfg.PLLISPB }))

/-- HIST.SHIFT(y), every POP (42 R151). -/
def execHistShift (y : YWord) (s : State) : Result := .next (runHistShift (yValue s.cfg y) s)

/-- PLL.HOLD: selected or not, nothing changes (42 R153). -/
def execPllHold (s : State) : Result := .next (runPllHold s)

/-- PLL.SNAP, selected by `fs = FS_IDLE` and a start transition (42 R154). -/
def execPllSnap (s : State) : Result :=
  performIf (s.frm.fs == .idle && startTransition s.pll) (runPllSnap s) s

/-- PLL.NUDGE, selected by `fs != FS_IDLE` and a transition in either direction (42 R155). -/
def execPllNudge (s : State) : Result :=
  performIf (s.frm.fs != .idle && trans s.pll) (runPllNudge s) s

/-- PLL.ADV, performed unless held, and only `FS_IDLE` holds (42 R153, R156). -/
def execPllAdv (s : State) : Result := performIf (s.frm.fs != .idle) (runPllAdv s) s

/-- PLL.LATCH, selected by `icont >= PLLISPB2` (42 R157). -/
def execPllLatch (s : State) : Result := performIf (latchDue s.cfg s.pll) (runPllLatch s) s

/-- PLL.ROUND, part of every PLL.LATCH (42 R158). Presented on its own, outside PLL.LATCH, it is performed in every
state: DESIGN CHOICE, unsafe (log 23), the spec has it only inside PLL.LATCH. -/
def execPllRound (s : State) : Result := .next (runPllRound s)

end Sys2Proof.Machine
end

