-- ==== Sys2Proof/Machine/Pop.lean ====
section
/-! DEFINITION. POP, the composition that carries one sample through the block (40_sample_input_stage.md R113). -/

namespace Sys2Proof.Machine

/-- The part of POP after the transition operation when the clock runs: PLL.ADV, and at the bit centre PLL.LATCH and
FRAMER (40 R113). The latched bit is the polarity of `x0` (42 R157). -/
def runClock (s : State) : State :=
  if latchDue s.cfg (runPllAdv s).pll then runFramer (polarity s.pll.x0) (runPllLatch (runPllAdv s))
  else runPllAdv s

/-- The part of POP after HIST.SHIFT: the transition operation, then the clock unless it is held (40 R113). -/
def runTiming (s : State) : State :=
  if s.frm.fs = .idle then
    (if startTransition s.pll then runClock (runPllSnap s) else runPllHold s)
  else runClock (if trans s.pll then runPllNudge s else s)

/-- DISC.STEP and HIST.SHIFT on the popped sample (40 R113). -/
def runSample (x : Sample) (s : State) : State :=
  runHistShift (runDiscStep x s).wires.y (runDiscStep x s)

/-- `inv` after a POP: 0 when a bit was latched, the framer is idle or the outcome is terminal (40 R113, R114). -/
def invAfter (s : State) : Bool := !(s.trace.bit.isSome || s.frm.fs == .idle || terminal s.dec.ds)

/-- The last line of POP (40 R113). -/
def closePop (s : State) : State := s.setInp { s.inp with inv := invAfter s }

/-- A sample off the head of the FIFO, with nothing yet on the trace outputs (40 R113, 30_encoding.md R99). -/
def takeSample (rest : List Sample) (s : State) : State := quiet (s.setInp { s.inp with fifo := rest })

/-- POP with the sample at the head of the FIFO (40 R113). -/
def runPop (s : State) : State :=
  match s.inp.fifo with
  | [] => s
  | x :: rest => closePop (runTiming (runSample x (takeSample rest s)))

/-- POP, when its gate is open (40 R112, R113); otherwise the core idles (60_exceptions.md R258). -/
def execPop (s : State) : Result := performIf (popEnabled s) (runPop s) (quiet s)

end Sys2Proof.Machine
end

