-- ==== Sys2Proof/Machine/Dispatch.lean ====
section
/-! DEFINITION. exec: one arm per operation of spec/opcode_table.json. -/

namespace Sys2Proof.Machine

def exec (i : Instr) (s : State) : Host.Outcome State Fault Refusal :=
  match i with
  | .frame v => Sys2Proof.Machine.execFrame v s
  | .start => Sys2Proof.Machine.execStart s
  | .push x => Sys2Proof.Machine.execPush x s
  | .rdst => Sys2Proof.Machine.execRdst s
  | .rdmb a => Sys2Proof.Machine.execRdmb a s
  | .pop => Sys2Proof.Machine.execPop s
  | .discStep x => Sys2Proof.Machine.execDiscStep x s
  | .mfMark => Sys2Proof.Machine.execMfMark s
  | .mfSpace => Sys2Proof.Machine.execMfSpace s
  | .diff => Sys2Proof.Machine.execDiff s
  | .postf => Sys2Proof.Machine.execPostf s
  | .histShift y => Sys2Proof.Machine.execHistShift y s
  | .pllHold => Sys2Proof.Machine.execPllHold s
  | .pllSnap => Sys2Proof.Machine.execPllSnap s
  | .pllNudge => Sys2Proof.Machine.execPllNudge s
  | .pllAdv => Sys2Proof.Machine.execPllAdv s
  | .pllLatch => Sys2Proof.Machine.execPllLatch s
  | .pllRound => Sys2Proof.Machine.execPllRound s
  | .frStartOk => Sys2Proof.Machine.execFrStartOk s
  | .frStartFalse => Sys2Proof.Machine.execFrStartFalse s
  | .frData b => Sys2Proof.Machine.execFrData b s
  | .frStopOk => Sys2Proof.Machine.execFrStopOk s
  | .frStopBad => Sys2Proof.Machine.execFrStopBad s
  | .ovf v => Sys2Proof.Machine.execOvf v s
  | .append v => Sys2Proof.Machine.execAppend v s
  | .mtMdmf => Sys2Proof.Machine.execMtMdmf s
  | .mtSdmf => Sys2Proof.Machine.execMtSdmf s
  | .mtOther v => Sys2Proof.Machine.execMtOther v s
  | .mlAny v => Sys2Proof.Machine.execMlAny v s
  | .dtDate => Sys2Proof.Machine.execDtDate s
  | .dtNumber => Sys2Proof.Machine.execDtNumber s
  | .dtNonumber => Sys2Proof.Machine.execDtNonumber s
  | .dtName => Sys2Proof.Machine.execDtName s
  | .dtNoname => Sys2Proof.Machine.execDtNoname s
  | .dtOther v => Sys2Proof.Machine.execDtOther v s
  | .dlAny v => Sys2Proof.Machine.execDlAny v s
  | .dataAny v => Sys2Proof.Machine.execDataAny v s
  | .ckAny v => Sys2Proof.Machine.execCkAny v s
  | .extract => Sys2Proof.Machine.execExtract s

end Sys2Proof.Machine
end

