-- ==== Sys2Proof/Machine/Fetch.lean ====
section
/-! DEFINITION. How the machine comes by its next operation (log 3), and the state that selects a row named by a
table word (30_encoding.md R102, log 2). -/

namespace Sys2Proof.Machine

/-- What happens next. -/
inductive NextOp where
  /-- the next pending operation, and those after it -/
  | perform (i : Instr) (rest : List OpWord)
  /-- the next pending word is no operation's -/
  | undecodable (why : Reject)
  /-- nothing is pending and POP is enabled: the core pops (00_scope.md R6) -/
  | corePops
  /-- nothing is pending and POP is not enabled: the block waits (60_exceptions.md R258) -/
  | idle
  deriving DecidableEq, Repr

/-- The agents' next operation (20_memory.md R71; DESIGN CHOICE, safe, log 3). -/
def nextOp (s : State) : NextOp :=
  match s.pending with
  | [] => if popEnabled s then .corePops else .idle
  | w :: rest =>
    match decode w with
    | .ok i => .perform i rest
    | .error e => .undecodable e

/-- Put `fs` at the state that selects a framer row. -/
def inFramerState (f : FState) (s : State) : State := s.setFrm { s.frm with fs := f }

/-- Put `ds` at the state that selects a decoder row. -/
def inDecoderState (d : DState) (s : State) : State := s.setDec { s.dec with ds := d }

/-- The selecting state that the table gives with a row (`fields.state`, 30_encoding.md R102), for the rows that
name exactly one; the table's word alone does not say it (log 2). -/
def selectRowState (i : Instr) (s : State) : State :=
  match i with
  | .pllHold | .pllSnap => inFramerState .idle s
  | .frStartOk | .frStartFalse => inFramerState .start s
  | .frData _ => inFramerState .data s
  | .frStopOk | .frStopBad => inFramerState .stop s
  | .mtMdmf | .mtSdmf | .mtOther _ => inDecoderState .mt s
  | .mlAny _ => inDecoderState .ml s
  | .dtDate | .dtNumber | .dtNonumber | .dtName | .dtNoname | .dtOther _ => inDecoderState .dt s
  | .dlAny _ => inDecoderState .dl s
  | .dataAny _ => inDecoderState .data s
  | .ckAny _ => inDecoderState .ck s
  | .frame _ | .start | .push _ | .rdst | .rdmb _ | .pop => s
  | .discStep _ | .mfMark | .mfSpace | .diff | .postf | .histShift _ => s
  | .pllNudge | .pllAdv | .pllLatch | .pllRound | .ovf _ | .append _ | .extract => s

/-- `selectRowState` of the operation a word decodes to; nothing where it is refused. -/
def selectWordState (w : OpWord) (s : State) : State :=
  match decode w with
  | .ok i => selectRowState i s
  | .error _ => s

end Sys2Proof.Machine
end

