-- ==== Sys2Proof/Machine/Step.lean ====
section
/-! DEFINITION. One step: the next operation of the agents (20_memory.md R71), performed whole (00_scope.md R5). -/

namespace Sys2Proof.Machine

/-- A configuration that breaks a constraint is refused (00_scope.md R10). Otherwise the next pending operation is
performed; with nothing pending the core pops while POP is enabled, and else the block waits with nothing on the
trace outputs (log 3). -/
def step (s : State) : Host.Outcome State Fault Refusal :=
  if s.cfg.valid then
    match nextOp s with
    | .perform i rest => exec i (s.setPending rest)
    | .undecodable e => .fault (.notAnOperation e)
    | .corePops => exec .pop s
    | .idle => .next (quiet s)
  else .refused .configurationRefused

/-- The word in the place of the next pending operation, and the state that selects its row (log 2, log 3). -/
def State.withFetchWord (s : State) (nbits w : Nat) : State :=
  (selectWordState (tableOpWord nbits w) s).setPending (tableOpWord nbits w :: s.pending.drop 1)

end Sys2Proof.Machine
end

