-- ==== Sys2Proof/Machine/Ports.lean ====
section
/-! DEFINITION. The block's ports (30_encoding.md R97) and what one clock cycle does with them (40 R124, 70 R270). -/

namespace Sys2Proof.Machine

/-- The input ports of one cycle. -/
structure PortIn where
  rst : Bool
  start : Bool
  s_valid : Bool
  s_data : Sample
  mb_addr : MbAddr
  deriving DecidableEq, Repr

/-- The output ports. `bit` and `byte` hold the data when valid; what `bit_data` and `byte_data` are otherwise the
spec does not say (30_encoding.md R99, log 12). -/
structure PortOut where
  s_ready : Bool
  mb_data : Byte
  status : BitVec 32
  status2 : BitVec 32
  occ : Nat
  done : Bool
  bit : Option Bool
  byte : Option Byte
  deriving DecidableEq, Repr

/-- The outputs in a state (30_encoding.md R97). -/
def portsOut (a : MbAddr) (s : State) : PortOut :=
  { s_ready := sReady s, mb_data := memRead s.dec a.toNat, status := statusWord s, status2 := status2Word s
    occ := occ s, done := doneOut s, bit := s.trace.bit, byte := s.trace.byte }

/-- One rising edge of `clk`. `rst` overrides everything, `start` overrides PUSH and POP, and a POP and a PUSH of
the same cycle behave as POP then PUSH, the gate and `s_ready` read before either (40 R124, 30_encoding.md R97).
`popNow`: whether the core completes a POP in this cycle, which the spec leaves to the implementation (70 R289,
log 18). -/
def clockEdge (p : PortIn) (popNow : Bool) (s : State) : State :=
  if p.rst then newSession s
  else if p.start then newSession s
  else
    let popped := if popNow && popEnabled s then runPop s else quiet s
    if p.s_valid && sReady s then pushSample p.s_data popped else popped

end Sys2Proof.Machine
end

