-- ==== Sys2Proof/Safety.lean ====
section
/-! DEFINITION. What a good state is and what two runs are compared by, in the terms the statements use
(10_state.md R20, R25 to R28, R30, R31, R48; 30_encoding.md R99; 40 R116; 42 R158; 45 R225). -/

namespace Sys2Proof.Machine

/-! ## The operations of the agents -/

/-- The operations an agent performs (00_scope.md R6), with the host's EXTRACT: the others are parts of a POP
(30_encoding.md R100), and FRAME is the line's. -/
def agentOp : Instr → Bool
  | .start | .push _ | .rdst | .rdmb _ | .pop | .extract => true
  | .frame _ | .discStep _ | .mfMark | .mfSpace | .diff | .postf => false
  | .histShift _ | .pllHold | .pllSnap | .pllNudge | .pllAdv | .pllLatch | .pllRound => false
  | .frStartOk | .frStartFalse | .frData _ | .frStopOk | .frStopBad => false
  | .ovf _ | .append _ | .mtMdmf | .mtSdmf | .mtOther _ | .mlAny _ => false
  | .dtDate | .dtNumber | .dtNonumber | .dtName | .dtNoname | .dtOther _ => false
  | .dlAny _ | .dataAny _ | .ckAny _ => false

/-- A pending word is an agent's operation. -/
def agentWord (w : OpWord) : Bool :=
  match decode w with
  | .ok i => agentOp i
  | .error _ => false

/-! ## The structural invariant, kept by every operation of the table -/

/-- The delay lines of `DISC_REF` have their lengths (10_state.md R24, R25). -/
def linesOk (s : State) : Prop :=
  isRef s.cfg = true → s.disc.xs.length = s.cfg.W ∧ s.disc.dl.length = s.cfg.L

/-- `nb` and `ns` stay in their ranges (10_state.md R30, R31). -/
def countersOk (s : State) : Prop :=
  s.frm.nb.toNat ≤ 8 ∧ (s.frm.fs = .data → s.frm.nb.toNat < 8) ∧
  s.frm.ns.toNat ≤ s.cfg.NSTOP ∧ (s.frm.fs = .stop → s.frm.ns.toNat < s.cfg.NSTOP)

/-- The message buffer is canonical, within its capacity, and holds nothing at or above `msglen` (R40, R61). -/
def bufferOk (s : State) : Prop :=
  s.dec.msglen.toNat ≤ s.cfg.MSG_MAX ∧ Memory.wf s.dec.msgbuf ∧ ∀ e ∈ s.dec.msgbuf, e.1 < s.dec.msglen.toNat

/-- A signed value of `n` bits (00_scope.md R12). -/
def fitsWidth (n : Nat) (v : Int) : Prop := -2 ^ (n - 1) ≤ v ∧ v < 2 ^ (n - 1)

/-- The spec states the widths of `DISC_REF` for `W <= 8` and `L <= 4` (41 R134); those of another `DISC` always. -/
def widthsStated (c : Config) : Prop := isRef c = true → c.W ≤ 8 ∧ c.L ≤ 4

/-- An energy of `DISC_REF` (41 R136). -/
def energyOk (e : Int) : Prop := 0 ≤ e ∧ e < 2 ^ 31

/-- An energy difference of `DISC_REF`, signed 32 bits (10_state.md R25, 41 R138). -/
def differenceOk (d : Int) : Prop := -2 ^ 31 < d ∧ d < 2 ^ 31

/-- Every discriminated value, handed on or in the history, is a signed value of `YW` bits, and the energies of
`DISC_REF` and the entries of `dl` have their widths (10_state.md R25, R26, 41 R136 to R139). `wires` is the model's
own field (log 13). -/
def widthsOk (s : State) : Prop :=
  widthsStated s.cfg →
    fitsWidth s.cfg.YW s.pll.x0 ∧ fitsWidth s.cfg.YW s.pll.x1 ∧ fitsWidth s.cfg.YW s.pll.x2 ∧
    fitsWidth s.cfg.YW s.wires.y ∧
    (isRef s.cfg = true → (∀ d ∈ s.disc.dl, differenceOk d) ∧
      energyOk s.wires.em ∧ energyOk s.wires.es ∧ differenceOk s.wires.d)

/-- The structural invariant. -/
def StructureOk (s : State) : Prop :=
  s.inp.fifo.length ≤ s.cfg.FIFO_DEPTH ∧ s.pll.rcnt < s.cfg.PLL_ROUND_PERIOD ∧
  linesOk s ∧ widthsOk s ∧ countersOk s ∧ bufferOk s

/-! ## The block's invariant, kept by every operation of the agents -/

/-- The sum mod 256 of the buffer's bytes `0 .. n-1` (10_state.md R48). -/
def byteSum (m : Memory) : Nat → Byte
  | 0 => 0
  | n + 1 => byteSum m n + Memory.read m n

/-- `icont` between two operations (10_state.md R27). -/
def phaseOk (s : State) : Prop :=
  (s.cfg.PLLISPB2 : Int) - s.cfg.PLLISPB - 1 ≤ s.pll.icont ∧ s.pll.icont ≤ (s.cfg.PLLISPB2 : Int) - 1

/-- Whether the message's last byte is a checksum byte that has been judged (10_state.md R48, item 2). -/
def judged : DState → Bool
  | .complete | .ckfail => true
  | .mt | .ml | .dt | .dl | .data | .ck | .unknown | .malformed => false

/-- `cks` is the sum of the bytes stored, a judged checksum byte excluded (10_state.md R38, R48 item 2). -/
def checksumOk (d : Decoder) : Prop :=
  if judged d.ds then 1 ≤ d.msglen.toNat ∧ d.cks = byteSum d.msgbuf (d.msglen.toNat - 1)
  else d.cks = byteSum d.msgbuf d.msglen.toNat

/-- How many bytes have been taken in the first decoder states (44 R212). -/
def positionOk (d : Decoder) : Prop :=
  (d.ds = .mt → d.msglen.toNat = 0) ∧ (d.ds = .ml → d.msglen.toNat = 1) ∧
  (d.ds ≠ .mt → d.ds ≠ .ml → 1 ≤ d.msglen.toNat) ∧
  (d.ds ≠ .mt → d.ds ≠ .ml → d.ds ≠ .unknown → 2 ≤ d.msglen.toNat)

/-- `fmt` is unset exactly before the type byte, or when that byte was unknown (10_state.md R48 item 5). -/
def formatOk (d : Decoder) : Prop :=
  d.fmt = .none ↔ (d.ds = .mt ∨ (d.ds = .unknown ∧ d.msglen.toNat = 1))

/-- In `DS_DATA` a byte is still to come (44 R207). -/
def countOk (d : Decoder) : Prop := d.ds = .data → d.cnt ≠ 0

/-- `DS_CK` is reached, and a checksum judged, only after the completion test held (44 R206, R212). -/
def completionOk (d : Decoder) : Prop :=
  (d.ds = .ck ∨ judged d.ds = true) → messageDone d = true

/-- After a terminal outcome the framer is idle and no invocation is in progress (60_exceptions.md R246); no
invocation is in progress while the framer is idle (40 R114). -/
def frozenOk (s : State) : Prop :=
  (terminal s.dec.ds = true → s.frm.fs = .idle) ∧ (s.frm.fs = .idle → s.inp.inv = false)

/-- The block's invariant, and every operation still to be performed is an agent's. -/
def BlockOk (s : State) : Prop :=
  StructureOk s ∧ phaseOk s ∧ checksumOk s.dec ∧ positionOk s.dec ∧ formatOk s.dec ∧ countOk s.dec ∧
  completionOk s.dec ∧ frozenOk s ∧ ∀ w ∈ s.pending, agentWord w = true

/-! ## Comparing states -/

/-- The block's own state is the same (10_state.md R20). -/
def sameBlock (s t : State) : Prop :=
  s.inp = t.inp ∧ s.disc = t.disc ∧ s.pll = t.pll ∧ s.frm = t.frm ∧ s.dec = t.dec

/-- The block's own state is the same, the message buffer as RDMB reads it: its bytes at and above `msglen` are
unspecified and unobservable (10_state.md R20, R41, R49, 70 R272). -/
def sameObserved (s t : State) : Prop :=
  s.inp = t.inp ∧ s.disc = t.disc ∧ s.pll = t.pll ∧ s.frm = t.frm ∧
  { s.dec with msgbuf := [] } = { t.dec with msgbuf := [] } ∧ ∀ a : Nat, memRead s.dec a = memRead t.dec a

/-! ## What a decoder operation leaves of a byte -/

/-- A byte stored at `msglen`, counted and summed (44 R192, a state other than `DS_CK`). -/
def storedAndSummed (v : Byte) (d : Decoder) : Decoder :=
  { d with
    msgbuf := Memory.write d.msgbuf d.msglen.toNat v
    msglen := d.msglen + 1
    cks := d.cks + v }

/-- A byte stored at `msglen` and counted, not summed (44 R192, `DS_CK`). -/
def storedOnly (v : Byte) (d : Decoder) : Decoder :=
  { d with
    msgbuf := Memory.write d.msgbuf d.msglen.toNat v
    msglen := d.msglen + 1 }

/-- A byte meets a row of state `st`: that is the state, and the buffer is not full (44 R190, R193). -/
def byteMeets (st : DState) (s : State) : Prop := s.dec.ds = st ∧ s.dec.msglen.toNat ≠ s.cfg.MSG_MAX

/-- The completion test's two cases (44 R206). -/
def fieldsComplete (d : Decoder) : Prop :=
  (d.fmt = .mdmf ∧ d.nameseen = true ∧ d.numseen = true) ∨ (d.fmt = .sdmf ∧ d.numseen = true)

/-- The operations that store nothing: neither a byte, nor a new session, nor a part of POP that may run DECODER. -/
def storesNothing : Instr → Bool
  | .push _ | .rdst | .rdmb _ | .extract | .ovf _ => true
  | .discStep _ | .mfMark | .mfSpace | .diff | .postf => true
  | .histShift _ | .pllHold | .pllSnap | .pllNudge | .pllAdv | .pllLatch | .pllRound => true
  | .frStartOk | .frStartFalse | .frData _ | .frStopBad => true
  | .start | .frame _ | .pop | .frStopOk | .append _ | .mtMdmf | .mtSdmf | .mtOther _ | .mlAny _ => false
  | .dtDate | .dtNumber | .dtNonumber | .dtName | .dtNoname | .dtOther _ => false
  | .dlAny _ | .dataAny _ | .ckAny _ => false

/-- The operations that store at most one byte, at `msglen`. -/
def storesAtMsglen : Instr → Bool
  | .pop | .frStopOk | .append _ | .mtMdmf | .mtSdmf | .mtOther _ | .mlAny _ => true
  | .dtDate | .dtNumber | .dtNonumber | .dtName | .dtNoname | .dtOther _ => true
  | .dlAny _ | .dataAny _ | .ckAny _ => true
  | .push _ | .rdst | .rdmb _ | .extract | .ovf _ => false
  | .discStep _ | .mfMark | .mfSpace | .diff | .postf => false
  | .histShift _ | .pllHold | .pllSnap | .pllNudge | .pllAdv | .pllLatch | .pllRound => false
  | .frStartOk | .frStartFalse | .frData _ | .frStopBad => false
  | .start | .frame _ => false

/-! ## Messages as groups -/

/-- A field group as it is sent: its data type, its length byte and its body (30_encoding.md R85, R88). -/
def groupBytes (g : Byte × List Byte) : List Byte := g.1 :: BitVec.ofNat 8 g.2.length :: g.2

/-- Groups one after another. -/
def groupsBytes (gs : List (Byte × List Byte)) : List Byte := gs.flatMap groupBytes

/-- The sum of a byte sequence (30_encoding.md R90). -/
def byteTotal (bs : List Byte) : Nat := (bs.map BitVec.toNat).sum

/-- The checksum byte of the bytes before it (30_encoding.md R90). -/
def isChecksumOf (ck : Byte) (bs : List Byte) : Prop := ck.toNat = (256 - byteTotal bs % 256) % 256

/-- A group that EXTRACT accepts: a recognised type, a length that one byte announces, and where it is a date/time
group a good one (45 R221, R223). -/
def acceptedGroup (g : Byte × List Byte) : Prop :=
  g.1 ∈ [(0x01 : Byte), 0x02, 0x04, 0x07, 0x08] ∧ g.2.length ≤ 255 ∧ (g.1 = 0x01 → dateTime g.2 ≠ none)

/-- What makes EXTRACT fail where a group should start, `rest` the bytes from there to the checksum byte: fewer than
two bytes or a declared length past the checksum byte (45 R225 (a)), a bad date/time group ((b), (c)), a type that is
none of the five ((d)). -/
def groupFails : List Byte → Prop
  | [] => False
  | [_] => True
  | t :: l :: body =>
    body.length < l.toNat ∨ t ∉ [(0x01 : Byte), 0x02, 0x04, 0x07, 0x08] ∨
    (t = 0x01 ∧ dateTime (body.take l.toNat) = none)

/-- A record after one more group: the later occurrence of a field replaces the earlier (45 R221, R226). -/
def intoRecord (fieldMax : Nat) (r : CidRecord) (g : Byte × List Byte) : CidRecord :=
  if g.1 = 0x01 then
    (match dateTime g.2 with
      | some dt => { r with date := dt.1, time := dt.2 }
      | none => r)
  else if g.1 = 0x02 then { r with number := g.2.take fieldMax }
  else if g.1 = 0x04 then { r with number := [] }
  else if g.1 = 0x07 then { r with name := g.2.take fieldMax }
  else if g.1 = 0x08 then { r with name := [] }
  else r

/-! ## Runs of operations -/

/-- Operations one after another (20_memory.md R71: one interleaving). -/
def performAll : List Instr → State → Result
  | [], s => .next s
  | i :: is, s =>
    match exec i s with
    | .next t => performAll is t
    | .fault r => .fault r
    | .refused r => .refused r

/-- One event on the trace outputs (30_encoding.md R99). -/
inductive TraceEvent where
  | bit (b : Bool)
  | byte (v : Byte)
  deriving DecidableEq, Repr

/-- The events the trace outputs show, the bit before the byte it completed. -/
def eventsShown (tr : Trace) : List TraceEvent :=
  (tr.bit.map TraceEvent.bit).toList ++ (tr.byte.map TraceEvent.byte).toList

/-- The bits and bytes a run of agents' operations emits, in order: each shows the events of its own POP only. -/
def emittedBy : List Instr → State → List TraceEvent
  | [], _ => []
  | i :: is, s =>
    match exec i s with
    | .next t => eventsShown t.trace ++ emittedBy is t
    | .fault _ => []
    | .refused _ => []

/-- The operations between two latches of one frame: all but those that load or correct `rcnt` outside PLL.LATCH
(PLL.SNAP, START and PLL.ROUND on its own, 10_state.md R28), and POP, which may perform a PLL.SNAP. -/
def keepsRounding : Instr → Bool
  | .start | .pop | .pllSnap | .pllRound => false
  | .frame _ | .push _ | .rdst | .rdmb _ | .extract => true
  | .discStep _ | .mfMark | .mfSpace | .diff | .postf => true
  | .histShift _ | .pllHold | .pllNudge | .pllAdv | .pllLatch => true
  | .frStartOk | .frStartFalse | .frData _ | .frStopOk | .frStopBad => true
  | .ovf _ | .append _ | .mtMdmf | .mtSdmf | .mtOther _ | .mlAny _ => true
  | .dtDate | .dtNumber | .dtNonumber | .dtName | .dtNoname | .dtOther _ => true
  | .dlAny _ | .dataAny _ | .ckAny _ => true

/-- The operation latches a bit here (42 R157). -/
def latches (i : Instr) (s : State) : Bool := i == .pllLatch && latchDue s.cfg s.pll

/-- How many bits a run latches. -/
def latchesIn : List Instr → State → Nat
  | [], _ => 0
  | i :: is, s =>
    match exec i s with
    | .next t => (if latches i s then 1 else 0) + latchesIn is t
    | .fault _ => 0
    | .refused _ => 0

/-- How much more than `PLLISPB` per latch a run subtracts from `icont` at its latches (42 R158). -/
def extraUnitsIn : List Instr → State → Int
  | [], _ => 0
  | i :: is, s =>
    match exec i s with
    | .next t => (if latches i s then s.pll.icont - s.cfg.PLLISPB - t.pll.icont else 0) + extraUnitsIn is t
    | .fault _ => 0
    | .refused _ => 0

/-- The samples a run pushes, in order. -/
def pushesOf : List Instr → List Sample
  | [] => []
  | .push x :: is => x :: pushesOf is
  | _ :: is => pushesOf is

/-- No START in the run (40 R116). -/
def withoutStart (is : List Instr) : Bool := is.all fun i => agentOp i && i != .start

/-- Every sample the run offers finds room: "in a session pushed" (40 R111, R116). -/
def everySampleTaken : List Instr → State → Prop
  | [], _ => True
  | i :: is, s =>
    (∀ x, i = .push x → sReady s = true) ∧
    match exec i s with
    | .next t => everySampleTaken is t
    | .fault _ => True
    | .refused _ => True

end Sys2Proof.Machine
end

