-- ==== Sys2Proof/Certificates/Slice0/Obligations.lean ====
section
/-! DEFINITION. The statements for the provers. Each docstring names the rule of spec/ it formalises, or the log
entry of the model's own choice it speaks of. -/

open Sys2Proof Sys2Proof.Machine

/-! ## Encoding and selection -/

/-- The model's own operation words (log 1): every well-formed operation's word decodes to that operation. -/
def Obligations.EncodedOperationDecodesToItself : Prop :=
  ∀ i : Instr, i.wellFormed = true → decode (encode i) = .ok i

/-- The model's own operation words (log 1): a word that names a row and decodes is that operation's one word, and
the operation is well formed. -/
def Obligations.DecodedWordIsTheEncoding : Prop :=
  ∀ (w : OpWord) (i : Instr), wordSelector w ≠ 0 → decode w = .ok i → encode i = w ∧ i.wellFormed = true

/-- Bytes and bits written out from R87, R88 and R80 select, and decode as, the operations they stand for
(30_encoding.md R80, R87, R88; the selector bits are the model's, log 1). -/
def Obligations.SpecBytesSelectTheirRows : Prop :=
  selectDecoder .mt false 0x80 = some .mtMdmf ∧ selectDecoder .mt false 0x04 = some .mtSdmf ∧
  selectDecoder .mt false 0x55 = some (.mtOther 0x55) ∧
  selectDecoder .dt false 0x01 = some .dtDate ∧ selectDecoder .dt false 0x02 = some .dtNumber ∧
  selectDecoder .dt false 0x04 = some .dtNonumber ∧ selectDecoder .dt false 0x07 = some .dtName ∧
  selectDecoder .dt false 0x08 = some .dtNoname ∧ selectDecoder .dt false 0x80 = some (.dtOther 0x80) ∧
  decode 0x1A0080 = .ok .mtMdmf ∧ decode 0x1B0004 = .ok .mtSdmf ∧ decode 0x1F0002 = .ok .dtNumber ∧
  decode 0x150001 = .ok (.frData true) ∧ decode 0x030000 = .ok (.push 0) ∧
  decode 0x0102AA = .ok (.frame 0x55) ∧ decodeTableWord 8 0x80 = some .mtMdmf

/-! ## The step -/

/-- The next pending word's operation is what a step performs, on the state without that word (log 3). -/
def Obligations.StepRunsTheDecodedOperation : Prop :=
  ∀ (s : State) (w : OpWord) (rest : List OpWord) (i : Instr),
    s.cfg.valid = true → s.pending = w :: rest → decode w = .ok i → step s = exec i { s with pending := rest }

/-- With nothing pending the core pops while POP is enabled and otherwise the block waits (log 3); a word that is no
operation's faults by name (log 1); a refused configuration is refused (00_scope.md R10). What is refused is written
out: a configuration that breaks a constraint of R7, and, as log 8 infers, one whose MSG_MAX is above 511, whose
discriminator has no output bit, or whose ROMs are not `W` words of magnitude at most 127. -/
def Obligations.StepWithoutAnOperation : Prop :=
  (∀ s : State, s.cfg.valid = true → s.pending = [] → popEnabled s = true → step s = exec .pop s) ∧
  (∀ s : State, s.cfg.valid = true → s.pending = [] → popEnabled s = false →
    step s = .next { s with trace := { bit := none, byte := none } }) ∧
  (∀ (s : State) (w : OpWord) (rest : List OpWord) (e : Reject),
    s.cfg.valid = true → s.pending = w :: rest → decode w = .error e → step s = .fault (.notAnOperation e)) ∧
  (∀ s : State, s.cfg.valid = false → step s = .refused .configurationRefused) ∧
  (∀ c : Config, c.valid = true ↔
    (0 < c.FS ∧ 0 < c.BAUD ∧ 4 * c.BAUD ≤ c.FS ∧ (c.NSTOP = 1 ∨ c.NSTOP = 2) ∧
      1 ≤ c.GATE_WINDOW ∧ c.GATE_WINDOW ≤ c.FIFO_DEPTH ∧ 3 ≤ c.MSG_MAX) ∧
    c.MSG_MAX ≤ 511 ∧
    (match c.DISC with
      | .ref r => ∀ rom ∈ [r.CM_I, r.CM_Q, r.CS_I, r.CS_Q], rom.length = c.W ∧ ∀ k ∈ rom, -127 ≤ k ∧ k ≤ 127
      | .ident => True
      | .other _ width => 1 ≤ width))

/-! ## Reset and sessions -/

/-- Right after reset every element has the value of R49, and the outputs are those of R271, whatever accepted
configuration the block was built with; the machine's own reset state is that of the reference instance (log 7). -/
def Obligations.ResetHoldsTheSpecValues : Prop :=
  State.reset = State.resetOf Config.reference ∧
  ∀ (c : Config) (r : State), c.valid = true → r = State.resetOf c →
    r.inp = { fifo := [], inv := false } ∧
    (isRef c = true → r.disc.xs = List.replicate c.W 0 ∧ r.disc.dl = List.replicate c.L 0) ∧
    r.pll = { x0 := 0, x1 := 0, x2 := 0, icont := 0, rcnt := 0 } ∧
    r.frm = { fs := .idle, nb := 0, ns := 0, sr := 0 } ∧
    r.dec.ds = .mt ∧ r.dec.fmt = .none ∧ r.dec.mlen = 0 ∧ r.dec.cnt = 0 ∧ r.dec.cks = 0 ∧
    r.dec.nameseen = false ∧ r.dec.numseen = false ∧ r.dec.lenbad = false ∧ r.dec.msglen = 0 ∧
    (∀ a : MbAddr, portsOut a r =
      { s_ready := true, mb_data := 0, status := 0x02000000, status2 := 0, occ := 0, done := false
        bit := none, byte := none }) ∧
    popEnabled r = false

/-- The reset state of every accepted configuration meets the invariant of the block (10_state.md R48), and so does
the machine's own reset state, that of the reference instance (log 7). -/
def Obligations.ResetMeetsTheBlockInvariant : Prop :=
  (∀ c : Config, c.valid = true → BlockOk (State.resetOf c)) ∧ BlockOk State.reset

/-- START gives every element its value of R49, whatever the state before, and nothing else changes; a cycle with
`start` or `rst` does exactly that, no PUSH and no POP (40 R118, 10_state.md R49, R50, 70 R270). -/
def Obligations.StartMakesANewSession : Prop :=
  ∀ s : State, ∃ t : State, exec .start s = .next t ∧
    (∀ (p : PortIn) (popNow : Bool), p.rst = true ∨ p.start = true → clockEdge p popNow s = t) ∧
    t.inp = { fifo := [], inv := false } ∧
    t.disc = resetDisc s.cfg ∧
    (isRef s.cfg = true → t.disc.xs = List.replicate s.cfg.W 0 ∧ t.disc.dl = List.replicate s.cfg.L 0) ∧
    t.pll = { x0 := 0, x1 := 0, x2 := 0, icont := 0, rcnt := 0 } ∧
    t.frm = { fs := .idle, nb := 0, ns := 0, sr := 0 } ∧
    t.dec.ds = .mt ∧ t.dec.fmt = .none ∧ t.dec.mlen = 0 ∧ t.dec.cnt = 0 ∧ t.dec.cks = 0 ∧
    t.dec.nameseen = false ∧ t.dec.numseen = false ∧ t.dec.lenbad = false ∧ t.dec.msglen = 0 ∧
    (∀ a : Nat, memRead t.dec a = 0) ∧
    t.trace = { bit := none, byte := none } ∧ t.cfg = s.cfg ∧ t.host = s.host ∧ t.pending = s.pending

/-- No state survives across sessions: after START two blocks of one build are the same, whatever they held, the
message buffer compared by what RDMB reads (10_state.md R50, 40 R118; R49 leaves the buffer's bytes unspecified). -/
def Obligations.NoStateSurvivesStart : Prop :=
  ∀ (s s' t t' : State), s.cfg = s'.cfg → exec .start s = .next t → exec .start s' = .next t' → sameObserved t t'

/-! ## Invariants and whole-machine rules -/

/-- Every step keeps the structural invariant, whatever operation it performs: the FIFO and the message buffer
within their capacities, the buffer canonical and empty above `msglen`, `rcnt`, `nb`, `ns` and the delay lines
within their ranges, the history `x0`, `x1`, `x2` within `YW` bits and the entries of `dl` within 32
(10_state.md R21, R24 to R26, R28, R30, R31, R40, 41 R136 to R139; for `DISC_REF` as far as the spec states the
widths, 41 R134; the canonical form is the model's, log 10, and so is `wires`, log 13). -/
def Obligations.EveryStepKeepsTheStructure : Prop :=
  ∀ s t : State, StructureOk s → step s = .next t → StructureOk t

/-- Every step of the agents keeps the block's invariant: the range of `icont` (R27), the checksum, format and
capacity invariants (R48), the counter in `DS_DATA` (44 R207), the flags at `DS_CK` (44 R212), and a frozen core
after an outcome (60 R246). -/
def Obligations.EveryAgentStepKeepsTheBlockInvariant : Prop :=
  ∀ s t : State, BlockOk s → step s = .next t → BlockOk t

/-- Once terminal, the decoder does not change until START, whatever operation is performed: nothing is appended or
summed and the outcome stays (44 R191, 10_state.md R48 item 4). -/
def Obligations.TerminalOutcomeStaysUntilStart : Prop :=
  ∀ (i : Instr) (s t : State), i ≠ .start → terminal s.dec.ds = true → exec i s = .next t → t.dec = s.dec

/-- No operation writes the parameters (10_state.md R42, 20_memory.md R75) or the operations still to be performed
(log 3). -/
def Obligations.NoOperationWritesTheParameters : Prop :=
  ∀ (i : Instr) (s t : State), exec i s = .next t → t.cfg = s.cfg ∧ t.pending = s.pending

/-- The message buffer is stored to by appends only, at `msglen`: an operation that appends leaves every other byte,
and every other operation but START (and FRAME, stated on its own) leaves all of them (20_memory.md R61, R68). -/
def Obligations.BytesAreStoredOnlyAtMsglen : Prop :=
  (∀ (i : Instr) (s t : State) (a : Nat), storesNothing i = true → exec i s = .next t →
    memRead t.dec a = memRead s.dec a ∧ Memory.read t.dec.msgbuf a = Memory.read s.dec.msgbuf a) ∧
  (∀ (i : Instr) (s t : State) (a : Nat), storesAtMsglen i = true → exec i s = .next t →
    a ≠ s.dec.msglen.toNat → Memory.read t.dec.msgbuf a = Memory.read s.dec.msgbuf a)

/-- The model's choice (log 4): an operation presented while its selecting condition (30_encoding.md R100) does not
hold changes nothing. -/
def Obligations.UnselectedOperationsChangeNothing : Prop :=
  ∀ s : State,
    (isRef s.cfg = false → ∀ i ∈ [Instr.mfMark, .mfSpace, .diff, .postf], exec i s = .next s) ∧
    (¬ (s.frm.fs = .idle ∧ trans s.pll = true ∧ s.pll.x0 < 0) → exec .pllSnap s = .next s) ∧
    (¬ (s.frm.fs ≠ .idle ∧ trans s.pll = true) → exec .pllNudge s = .next s) ∧
    (s.frm.fs = .idle → exec .pllAdv s = .next s) ∧
    (s.pll.icont < s.cfg.PLLISPB2 → exec .pllLatch s = .next s) ∧
    (s.frm.fs ≠ .start → exec .frStartOk s = .next s ∧ exec .frStartFalse s = .next s) ∧
    (s.frm.fs ≠ .data → ∀ b, exec (.frData b) s = .next s) ∧
    (s.frm.fs ≠ .stop → exec .frStopOk s = .next s ∧ exec .frStopBad s = .next s) ∧
    (terminal s.dec.ds = true ∨ s.dec.msglen.toNat ≠ s.cfg.MSG_MAX → ∀ v, exec (.ovf v) s = .next s) ∧
    (terminal s.dec.ds = true ∨ s.dec.msglen.toNat = s.cfg.MSG_MAX → ∀ v, exec (.append v) s = .next s) ∧
    (¬ byteMeets .mt s → exec .mtMdmf s = .next s ∧ exec .mtSdmf s = .next s ∧ ∀ v, exec (.mtOther v) s = .next s) ∧
    (¬ byteMeets .ml s → ∀ v, exec (.mlAny v) s = .next s) ∧
    (¬ byteMeets .dt s → (∀ i ∈ [Instr.dtDate, .dtNumber, .dtNonumber, .dtName, .dtNoname], exec i s = .next s) ∧
      ∀ v, exec (.dtOther v) s = .next s) ∧
    (¬ byteMeets .dl s → ∀ v, exec (.dlAny v) s = .next s) ∧
    (¬ byteMeets .data s → ∀ v, exec (.dataAny v) s = .next s) ∧
    (¬ byteMeets .ck s → ∀ v, exec (.ckAny v) s = .next s)

/-! ## The host's operations -/

/-- PUSH takes the sample iff `occ < FIFO_DEPTH`, at the tail, in every decoder state; offered to a full FIFO it is
not taken and the block does not change (40 R111; `taken` is what the host sees of `s_ready`, log 11). -/
def Obligations.PushTakesTheSampleWhenThereIsRoom : Prop :=
  ∀ (x : Sample) (s : State),
    (s.inp.fifo.length < s.cfg.FIFO_DEPTH →
      exec (.push x) s = .next { s with
        inp := { s.inp with fifo := s.inp.fifo ++ [x] }
        host := { s.host with taken := true }
        trace := { bit := none, byte := none } }) ∧
    (s.cfg.FIFO_DEPTH ≤ s.inp.fifo.length →
      exec (.push x) s = .next { s with
        host := { s.host with taken := false }
        trace := { bit := none, byte := none } })

/-- RDST returns STATUS, STATUS2 and OCC and changes nothing of the block (40 R119). -/
def Obligations.RdstReturnsTheStatusWords : Prop :=
  ∀ s : State, exec .rdst s = .next { s with
    host := { s.host with status := statusWord s, status2 := status2Word s, occ := s.inp.fifo.length }
    trace := { bit := none, byte := none } }

/-- Every field of STATUS and STATUS2 stands where R45 and R46 put it, with the outcome codes of 30_encoding.md R96
and the codes of `ds`, `fs` and `fmt` of R33, R29 and R34, the reserved bits 0, and the words of the reset state are
R45's and R46's. -/
def Obligations.StatusWordsHoldTheirFields : Prop :=
  (∀ c : Config, c.valid = true →
    statusWord (State.resetOf c) = 0x02000000 ∧ status2Word (State.resetOf c) = 0) ∧
  ∀ s : State,
    (statusWord s).extractLsb' 0 1 = BitVec.ofBool (terminal s.dec.ds) ∧
    (statusWord s).extractLsb' 1 3 =
      (match s.dec.ds with
        | .complete => 1
        | .unknown => 2
        | .ckfail => 3
        | .malformed => 4
        | .mt | .ml | .dt | .dl | .data | .ck => 0) ∧
    (statusWord s).extractLsb' 4 4 =
      (match s.dec.ds with
        | .mt => 0
        | .ml => 1
        | .dt => 2
        | .dl => 3
        | .data => 4
        | .ck => 5
        | .complete => 6
        | .ckfail => 7
        | .unknown => 8
        | .malformed => 9) ∧
    (statusWord s).extractLsb' 8 2 =
      (match s.frm.fs with
        | .idle => 0
        | .start => 1
        | .data => 2
        | .stop => 3) ∧
    (statusWord s).extractLsb' 10 2 =
      (match s.dec.fmt with
        | .none => 0
        | .sdmf => 1
        | .mdmf => 2) ∧
    (statusWord s).extractLsb' 12 1 = BitVec.ofBool s.dec.nameseen ∧
    (statusWord s).extractLsb' 13 1 = BitVec.ofBool s.dec.numseen ∧
    (statusWord s).extractLsb' 14 1 = BitVec.ofBool s.dec.lenbad ∧
    (statusWord s).extractLsb' 15 1 = BitVec.ofBool s.inp.inv ∧
    (statusWord s).extractLsb' 16 9 = s.dec.msglen ∧
    (statusWord s).extractLsb' 25 1 = BitVec.ofBool (!terminal s.dec.ds && !popEnabled s) ∧
    (statusWord s).extractLsb' 26 1 = BitVec.ofBool (decide (s.inp.fifo.length = s.cfg.FIFO_DEPTH)) ∧
    (statusWord s).extractLsb' 27 5 = 0 ∧
    (status2Word s).extractLsb' 0 8 = s.dec.cks ∧ (status2Word s).extractLsb' 8 8 = s.dec.mlen ∧
    (status2Word s).extractLsb' 16 8 = s.dec.cnt ∧ (status2Word s).extractLsb' 24 4 = s.frm.nb ∧
    (status2Word s).extractLsb' 28 2 = s.frm.ns ∧ (status2Word s).extractLsb' 30 2 = 0

/-- RDMB returns the byte at `a` when `a < msglen`, else 0, and changes nothing of the block (40 R120, 20 R62). -/
def Obligations.RdmbReturnsTheByteOrZero : Prop :=
  ∀ (a : MbAddr) (s : State), exec (.rdmb a) s = .next { s with
    host := { s.host with
      mbData := if a.toNat < s.dec.msglen.toNat then Memory.read s.dec.msgbuf a.toNat else 0 }
    trace := { bit := none, byte := none } }

/-- EXTRACT returns the record of the message's bytes and changes nothing of the block (45 R220), at any time
(log 19); and the feed call's return value is what R121's table makes of STATUS and of that record (40 R121). -/
def Obligations.ExtractReturnsTheRecord : Prop :=
  (∀ s : State, exec .extract s = .next { s with
    host := { s.host with record := some (extractBytes s.cfg.FIELD_MAX
      ((List.range s.dec.msglen.toNat).map fun a => Memory.read s.dec.msgbuf a)) }
    trace := { bit := none, byte := none } }) ∧
  (∀ s : State,
    ((statusWord s).extractLsb' 0 1 = 0 → feedResult s = .needMoreSamples ∧
      (popEnabled s = false → (statusWord s).extractLsb' 25 1 = 1)) ∧
    ((statusWord s).extractLsb' 1 3 = 1 → feedResult s =
      (match extractBytes s.cfg.FIELD_MAX
          ((List.range s.dec.msglen.toNat).map fun a => Memory.read s.dec.msgbuf a) with
        | .record r => .complete r
        | .malformedMessage => .malformedMessage)) ∧
    ((statusWord s).extractLsb' 1 3 = 2 → feedResult s = .unknownFormat) ∧
    ((statusWord s).extractLsb' 1 3 = 3 → feedResult s = .checksumFailed) ∧
    ((statusWord s).extractLsb' 1 3 = 4 → feedResult s = .malformedMessage))

/-! ## POP -/

/-- The gate of POP is R112's, and while it is closed POP changes nothing of the block (40 R112, 60 R258). -/
def Obligations.PopWaitsUnlessItsGateIsOpen : Prop :=
  ∀ s : State,
    (popEnabled s = true ↔ terminal s.dec.ds = false ∧ 1 ≤ s.inp.fifo.length ∧
      (s.inp.inv = true ∨ s.cfg.GATE_WINDOW ≤ s.inp.fifo.length)) ∧
    (popEnabled s = false → exec .pop s = .next { s with trace := { bit := none, byte := none } })

/-- POP is the composition of R113: the head sample leaves the FIFO, DISC.STEP, HIST.SHIFT of its result, the
transition operation the state selects, then, unless held, PLL.ADV and, at the bit centre, PLL.LATCH and the framer
operation the state selects; at the end `inv`. Every named operation is the table's own, performed on the state the
one before it left. -/
def Obligations.PopIsTheSequenceOfItsOperations : Prop :=
  ∀ (s : State) (x : Sample) (rest : List Sample), popEnabled s = true → s.inp.fifo = x :: rest →
    ∃ d a b e : State,
      exec (.discStep x) { s with
        inp := { s.inp with fifo := rest }, trace := { bit := none, byte := none } } = .next d ∧
      a = { d with pll := { d.pll with x0 := d.wires.y, x1 := d.pll.x0, x2 := d.pll.x1 } } ∧
      (match selectTransition a.frm.fs (trans a.pll) (decide (a.pll.x0 < 0)) with
        | some i => exec i a = .next b
        | none => b = a) ∧
      (if b.frm.fs = .idle then e = b
        else ∃ c : State, exec .pllAdv b = .next c ∧
          (if c.pll.icont < c.cfg.PLLISPB2 then e = c
            else ∃ l : State, exec .pllLatch c = .next l ∧ l.trace.bit = some (decide (0 < a.pll.x0)) ∧
              (match selectFramer l.frm.fs (decide (0 < a.pll.x0)) with
                | some i => exec i l = .next e
                | none => e = l))) ∧
      exec .pop s = .next { e with
        inp := { e.inp with
          inv := !(e.trace.bit.isSome || decide (e.frm.fs = .idle) || terminal e.dec.ds) } }

/-- When a POP reaches a terminal outcome the core is frozen at its end: no invocation in progress, the framer idle,
`done` high, POP disabled, the rest of the FIFO kept (60 R246). -/
def Obligations.OutcomeFreezesTheCore : Prop :=
  ∀ s t : State, popEnabled s = true → exec .pop s = .next t → terminal t.dec.ds = true →
    t.inp.inv = false ∧ t.frm.fs = .idle ∧ doneOut t = true ∧ popEnabled t = false ∧
    t.inp.fifo = s.inp.fifo.drop 1 ∧ t.trace.byte = some t.frm.sr

/-- A PUSH and a POP that are both possible give the same block in either order (20_memory.md R71, 40 R116). -/
def Obligations.PushAndPopCommute : Prop :=
  ∀ (s t u : State) (x : Sample), popEnabled s = true → s.inp.fifo.length < s.cfg.FIFO_DEPTH →
    performAll [.push x, .pop] s = .next t → performAll [.pop, .push x] s = .next u →
    sameBlock t u ∧ t.wires = u.wires ∧ t.host = u.host

/-- Streaming equivalence: two interleavings of agents' operations without START that push the same samples, every
one taken, and end with the core quiescent, leave the same block and have emitted the same bits and bytes in the same
order (40 R116, 20_memory.md R71). -/
def Obligations.InterleavingDoesNotMatter : Prop :=
  ∀ (s t u : State) (is js : List Instr),
    withoutStart is = true → withoutStart js = true → pushesOf is = pushesOf js →
    everySampleTaken is s → everySampleTaken js s →
    performAll is s = .next t → performAll js s = .next u →
    popEnabled t = false → popEnabled u = false → sameBlock t u ∧ emittedBy is s = emittedBy js s

/-- A live session never blocks the producer for ever: a full FIFO enables POP (20_memory.md R74); and a quiescent
live core has less than a window waiting (10_state.md R48 item 3). -/
def Obligations.LiveCoreDrainsAFullFifo : Prop :=
  ∀ s : State, s.cfg.valid = true → terminal s.dec.ds = false →
    (s.inp.fifo.length = s.cfg.FIFO_DEPTH → popEnabled s = true) ∧
    (popEnabled s = false → s.inp.fifo.length < s.cfg.GATE_WINDOW)

/-- One rising edge: `rst` and `start` override everything and make a new session; otherwise an offered sample that
finds `s_ready` and a POP behave as POP then PUSH, with the POP's bit and byte on the trace outputs; in a cycle that
completes no POP an offered sample that finds `s_ready` is a PUSH, any other cycle changes nothing, and nothing is on
the trace outputs (40 R124, 70 R270, 30_encoding.md R97, R99; which cycle completes a POP is log 18). -/
def Obligations.ClockEdgePriorities : Prop :=
  ∀ (p : PortIn) (popNow : Bool) (s : State),
    (p.rst = true ∨ p.start = true → exec .start s = .next (clockEdge p popNow s)) ∧
    (p.rst = false → p.start = false → p.s_valid = true → s.inp.fifo.length < s.cfg.FIFO_DEPTH →
      ∃ t u, exec .pop s = .next u ∧ performAll [.pop, .push p.s_data] s = .next t ∧
        sameBlock (clockEdge p true s) t ∧ (clockEdge p true s).trace = u.trace) ∧
    (p.rst = false → p.start = false → p.s_valid = false ∨ s.cfg.FIFO_DEPTH ≤ s.inp.fifo.length →
      exec .pop s = .next (clockEdge p true s)) ∧
    (p.rst = false → p.start = false → p.s_valid = true → s.inp.fifo.length < s.cfg.FIFO_DEPTH →
      ∃ t, exec (.push p.s_data) s = .next t ∧ sameBlock (clockEdge p false s) t ∧
        (clockEdge p false s).trace = { bit := none, byte := none }) ∧
    (p.rst = false → p.start = false → p.s_valid = false ∨ s.cfg.FIFO_DEPTH ≤ s.inp.fifo.length →
      clockEdge p false s = { s with trace := { bit := none, byte := none } })

/-! ## The discriminator -/

/-- DISC.STEP of `DISC_REF`: the sample enters `xs`, both tone energies, their difference enters `dl`, and `y` is its
sum (41 R140, with R136 to R139). -/
def Obligations.ReferenceDiscriminatorStep : Prop :=
  ∀ (x : Sample) (s : State) (r : Roms), s.cfg.DISC = .ref r →
    let xs := x :: s.disc.xs.take (s.cfg.W - 1)
    let em := (correlate xs r.CM_I / 1024) ^ 2 + (correlate xs r.CM_Q / 1024) ^ 2
    let es := (correlate xs r.CS_I / 1024) ^ 2 + (correlate xs r.CS_Q / 1024) ^ 2
    let dl := (em - es) :: s.disc.dl.take (s.cfg.L - 1)
    exec (.discStep x) s = .next { s with
      disc := { s.disc with xs := xs, dl := dl }
      wires := { em := em, es := es, d := em - es, y := dl.sum } }

/-- DISC.STEP of `DISC_ID` returns its input and has no state (41 R142); that of an unknown discriminator is a
function of its state and the sample, a signed value of its `YW` bits, and it writes nothing else (41 R130, R131; the
free values are log 9). -/
def Obligations.OtherDiscriminatorsStep : Prop :=
  (∀ (x : Sample) (s : State), s.cfg.DISC = .ident →
    exec (.discStep x) s = .next { s with wires := { s.wires with y := x.toInt } }) ∧
  (∀ (x : Sample) (s : State) (n width : Nat), s.cfg.DISC = .other n width →
    exec (.discStep x) s = .next { s with
      disc := { s.disc with ext := (Config.otherStep n s.disc.ext x).1 }
      wires := { s.wires with y := (Config.otherStep n s.disc.ext x).2.bmod (2 ^ width) } }) ∧
  (∀ c : Config,
    (∀ r, c.DISC = .ref r → c.YW = 32 + ceilLog2 c.L ∧ c.L ≤ 2 ^ ceilLog2 c.L ∧ 2 ^ ceilLog2 c.L < 2 * c.L) ∧
    (c.DISC = .ident → c.YW = 16) ∧ (∀ n width, c.DISC = .other n width → c.YW = width))

/-- The parts of `DISC_REF` on their own: MF.MARK and MF.SPACE give the energies of the delay line as it stands,
DIFF their difference, POSTF the moving sum (41 R136 to R139). -/
def Obligations.PartsOfTheReferenceDiscriminator : Prop :=
  ∀ (s : State) (r : Roms), s.cfg.DISC = .ref r →
    exec .mfMark s = .next { s with wires := { s.wires with
      em := (correlate s.disc.xs r.CM_I / 1024) ^ 2 + (correlate s.disc.xs r.CM_Q / 1024) ^ 2 } } ∧
    exec .mfSpace s = .next { s with wires := { s.wires with
      es := (correlate s.disc.xs r.CS_I / 1024) ^ 2 + (correlate s.disc.xs r.CS_Q / 1024) ^ 2 } } ∧
    exec .diff s = .next { s with wires := { s.wires with d := s.wires.em - s.wires.es } } ∧
    exec .postf s = .next { s with
      disc := { s.disc with dl := s.wires.d :: s.disc.dl.take (s.cfg.L - 1) }
      wires := { s.wires with y := (s.wires.d :: s.disc.dl.take (s.cfg.L - 1)).sum } }

/-- The quantities of `DISC_REF` fit their stated widths for up to eight taps of magnitude at most 127:
`0 <= EM < 2^31`, so the difference of two energies has `-2^31 < d < 2^31`, and the sum of `L` such differences has
`|y| < L * 2^31` (41 R136, R138, R139). -/
def Obligations.ToneEnergyFitsItsWidth : Prop :=
  (∀ (xs : List Sample) (ci cq si sq : List Int), xs.length ≤ 8 →
    (∀ c ∈ ci ++ cq ++ si ++ sq, -127 ≤ c ∧ c ≤ 127) →
    let em := (correlate xs ci / 1024) ^ 2 + (correlate xs cq / 1024) ^ 2
    let es := (correlate xs si / 1024) ^ 2 + (correlate xs sq / 1024) ^ 2
    0 ≤ em ∧ em < 2 ^ 31 ∧ -2 ^ 31 < em - es ∧ em - es < 2 ^ 31) ∧
  (∀ dl : List Int, dl ≠ [] → (∀ d ∈ dl, -2 ^ 31 < d ∧ d < 2 ^ 31) → |dl.sum| < dl.length * 2 ^ 31)

/-- The first output of a session of the reference instance is always 0 (41 R140, warm-up). -/
def Obligations.FirstReferenceOutputIsZero : Prop :=
  ∀ (x : Sample) (s t : State), s.cfg = Config.reference → s.disc = resetDisc s.cfg →
    exec (.discStep x) s = .next t → t.wires.y = 0

/-! ## The PLL -/

/-- HIST.SHIFT is the simultaneous shift of R151, its operand a signed value of `YW` bits (10_state.md R26). The
model's word carries 64 bits, of which it reads the low `YW` (log 21): an operand of `YW` bits enters as it is, and any
other as the `YW`-bit value of its low bits. -/
def Obligations.HistShiftShiftsTheHistory : Prop :=
  (∀ (y : YWord) (s : State), fitsWidth s.cfg.YW y.toInt → 1 ≤ s.cfg.YW →
    exec (.histShift y) s = .next { s with
      pll := { s.pll with x0 := y.toInt, x1 := s.pll.x0, x2 := s.pll.x1 } }) ∧
  (∀ (y : YWord) (s : State), ∃ v : Int, 2 ^ s.cfg.YW ∣ v - y.toInt ∧ (1 ≤ s.cfg.YW → fitsWidth s.cfg.YW v) ∧
    exec (.histShift y) s = .next { s with
      pll := { s.pll with x0 := v, x1 := s.pll.x0, x2 := s.pll.x1 } })

/-- A transition is R152's; PLL.HOLD writes nothing (R153); PLL.SNAP, on a start transition in `FS_IDLE`, loads the
phase and enters `FS_START` (R154). -/
def Obligations.HoldAndSnapInTheIdleFramer : Prop :=
  (∀ p : Pll, trans p = true ↔
    ((0 < p.x0 ∧ p.x1 < 0) ∨ (p.x0 < 0 ∧ 0 < p.x1)) ∨
    (p.x1 = 0 ∧ ((0 < p.x0 ∧ p.x2 < 0) ∨ (p.x0 < 0 ∧ 0 < p.x2)))) ∧
  (∀ s : State, exec .pllHold s = .next s) ∧
  (∀ s : State, s.frm.fs = .idle → trans s.pll = true → s.pll.x0 < 0 →
    exec .pllSnap s = .next { s with
      pll := { s.pll with icont := 0, rcnt := 0 }, frm := { s.frm with fs := .start } })

/-- PLL.NUDGE, on a transition inside a frame, takes from `icont` its clamp to `±PLLIDS` (R155); PLL.ADV adds
`PLLINC = 32` inside a frame (R156). -/
def Obligations.NudgeAndAdvanceInsideAFrame : Prop :=
  (∀ s : State, s.frm.fs ≠ .idle → trans s.pll = true →
    exec .pllNudge s = .next { s with pll := { s.pll with
      icont := s.pll.icont - max (-(s.cfg.PLLIDS : Int)) (min s.pll.icont s.cfg.PLLIDS) } }) ∧
  (∀ s : State, s.frm.fs ≠ .idle →
    exec .pllAdv s = .next { s with pll := { s.pll with icont := s.pll.icont + 32 } })

/-- A nudge moves `icont` toward 0 by at most `PLLIDS` and never past 0 (42 R155). -/
def Obligations.NudgeMovesTowardZero : Prop :=
  ∀ s t : State, s.frm.fs ≠ .idle → trans s.pll = true → exec .pllNudge s = .next t →
    |t.pll.icont| ≤ |s.pll.icont| ∧ |s.pll.icont - t.pll.icont| ≤ s.cfg.PLLIDS ∧
    (0 ≤ s.pll.icont → 0 ≤ t.pll.icont) ∧ (s.pll.icont ≤ 0 → t.pll.icont ≤ 0) ∧
    (|s.pll.icont| ≤ s.cfg.PLLIDS → t.pll.icont = 0)

/-- PLL.LATCH at `icont >= PLLISPB2`: the bit is the polarity of `x0`, the cycle is subtracted, then PLL.ROUND
(42 R157, R158). -/
def Obligations.LatchTakesTheBitAndTheCycle : Prop :=
  ∀ s : State, (s.cfg.PLLISPB2 : Int) ≤ s.pll.icont →
    exec .pllLatch s = .next { s with
      pll := (if s.cfg.PLL_ROUND_PERIOD ≤ s.pll.rcnt + s.cfg.PLL_ROUND_OFF then
          { s.pll with
            icont := s.pll.icont - s.cfg.PLLISPB - 1
            rcnt := s.pll.rcnt + s.cfg.PLL_ROUND_OFF - s.cfg.PLL_ROUND_PERIOD }
        else
          { s.pll with
            icont := s.pll.icont - s.cfg.PLLISPB
            rcnt := s.pll.rcnt + s.cfg.PLL_ROUND_OFF })
      trace := { s.trace with bit := some (decide (0 < s.pll.x0)) } }

/-- PLL.ROUND is R158's, on its own in every state (the model's choice, log 23). Over consecutive latches, with any
operations between them that neither load nor correct `rcnt`, the extra units subtracted are spread evenly: after `n`
latches they are `(rcnt + n * PLL_ROUND_OFF) / PLL_ROUND_PERIOD`, less than one unit from the exact share, and over
`PLL_ROUND_PERIOD` latches exactly `PLL_ROUND_OFF`, the counter back where it was; so too over that many corrections
in a row (42 R158, 10_state.md R28). -/
def Obligations.RoundingIsExactOverItsPeriod : Prop :=
  (∀ s : State, exec .pllRound s = .next { s with pll := { s.pll with
      rcnt := if s.cfg.PLL_ROUND_PERIOD ≤ s.pll.rcnt + s.cfg.PLL_ROUND_OFF
        then s.pll.rcnt + s.cfg.PLL_ROUND_OFF - s.cfg.PLL_ROUND_PERIOD else s.pll.rcnt + s.cfg.PLL_ROUND_OFF
      icont := if s.cfg.PLL_ROUND_PERIOD ≤ s.pll.rcnt + s.cfg.PLL_ROUND_OFF
        then s.pll.icont - 1 else s.pll.icont } }) ∧
  (∀ s : State, s.cfg.valid = true → s.pll.rcnt < s.cfg.PLL_ROUND_PERIOD →
    performAll (List.replicate s.cfg.PLL_ROUND_PERIOD .pllRound) s =
      .next { s with pll := { s.pll with icont := s.pll.icont - s.cfg.PLL_ROUND_OFF } }) ∧
  (∀ (s t : State) (is : List Instr), s.cfg.valid = true → s.pll.rcnt < s.cfg.PLL_ROUND_PERIOD →
    is.all keepsRounding = true → performAll is s = .next t →
    t.pll.rcnt = (s.pll.rcnt + latchesIn is s * s.cfg.PLL_ROUND_OFF) % s.cfg.PLL_ROUND_PERIOD ∧
    extraUnitsIn is s =
      ((s.pll.rcnt + latchesIn is s * s.cfg.PLL_ROUND_OFF) / s.cfg.PLL_ROUND_PERIOD : Nat) ∧
    |s.cfg.PLL_ROUND_PERIOD * extraUnitsIn is s - latchesIn is s * s.cfg.PLL_ROUND_OFF| < s.cfg.PLL_ROUND_PERIOD ∧
    (latchesIn is s = s.cfg.PLL_ROUND_PERIOD →
      extraUnitsIn is s = s.cfg.PLL_ROUND_OFF ∧ t.pll.rcnt = s.pll.rcnt))

/-- `PLLISPB + PLL_ROUND_OFF / PLL_ROUND_PERIOD = 32*FS/BAUD` exactly (00_scope.md R9), written without division. -/
def Obligations.DerivedConstantsAreExact : Prop :=
  ∀ c : Config, 0 < c.BAUD →
    0 < c.PLL_ROUND_PERIOD ∧ c.PLL_ROUND_OFF < c.PLL_ROUND_PERIOD ∧
    (c.PLLISPB * c.PLL_ROUND_PERIOD + c.PLL_ROUND_OFF) * c.BAUD = 32 * c.FS * c.PLL_ROUND_PERIOD

/-- The constraint `FS >= 4*BAUD` gives the bounds of 00_scope.md R10, so that a latch leaves `icont` below the
threshold and one POP latches at most one bit (42 R157). -/
def Obligations.AtMostOneLatchPerSample : Prop :=
  (∀ c : Config, 0 < c.BAUD → 4 * c.BAUD ≤ c.FS →
    128 ≤ c.PLLISPB ∧ 64 ≤ c.PLLISPB2 ∧ c.PLLINC < c.PLLISPB2 ∧ 4 ≤ c.PLLIDS) ∧
  (∀ s t : State, s.cfg.valid = true → s.pll.icont ≤ (s.cfg.PLLISPB2 : Int) + s.cfg.PLLINC - 1 →
    exec .pllLatch s = .next t → t.pll.icont < t.cfg.PLLISPB2)

/-! ## The framer -/

/-- FR.START.OK opens the data bits, FR.START.FALSE returns to `FS_IDLE` (43 R171, R172), and so does FR.STOP.BAD,
emitting nothing (43 R176); nothing else changes. -/
def Obligations.StartAndBadStopBits : Prop :=
  (∀ s : State, s.frm.fs = .start →
    exec .frStartOk s = .next { s with frm := { s.frm with fs := .data, nb := 0, sr := 0 } } ∧
    exec .frStartFalse s = .next { s with frm := { s.frm with fs := .idle } }) ∧
  (∀ s : State, s.frm.fs = .stop → exec .frStopBad s = .next { s with frm := { s.frm with fs := .idle } })

/-- FR.DATA shifts the bit in at bit 7 and counts; the eighth bit opens the stop bits (43 R173). -/
def Obligations.DataBitEntersTheShiftRegister : Prop :=
  ∀ (b : Bool) (s : State), s.frm.fs = .data →
    exec (.frData b) s = .next { s with frm :=
      if s.frm.nb + 1 = 8 then
        { fs := .stop, nb := s.frm.nb + 1, ns := 0, sr := BitVec.ofBool b ++ s.frm.sr.extractLsb' 1 7 }
      else
        { s.frm with nb := s.frm.nb + 1, sr := BitVec.ofBool b ++ s.frm.sr.extractLsb' 1 7 } }

/-- FR.STOP.OK counts; at the last stop bit the framer is idle, the byte is emitted, and the decoder operation that
the state selects runs on it (43 R175, 44 R190). -/
def Obligations.LastStopBitEmitsAndDecodes : Prop :=
  ∀ s : State, s.frm.fs = .stop →
    ((s.frm.ns + 1).toNat ≠ s.cfg.NSTOP →
      exec .frStopOk s = .next { s with frm := { s.frm with ns := s.frm.ns + 1 } }) ∧
    ((s.frm.ns + 1).toNat = s.cfg.NSTOP →
      let e : State := { s with
        frm := { s.frm with ns := s.frm.ns + 1, fs := .idle }
        trace := { s.trace with byte := some s.frm.sr } }
      match selectDecoder e.dec.ds (decide (e.dec.msglen.toNat = e.cfg.MSG_MAX)) s.frm.sr with
      | some i => exec .frStopOk s = exec i e
      | none => exec .frStopOk s = .next e)

/-- FRAMER(b) is, in every state and for every bit, the one operation of R170's table; in `FS_IDLE` it is none. -/
def Obligations.FramerTableSelectsTheOperation : Prop :=
  ∀ (b : Bool) (s : State),
    (s.frm.fs = .idle → selectFramer s.frm.fs b = none ∧ runFramer b s = s) ∧
    (s.frm.fs = .start → b = false → exec .frStartOk s = .next (runFramer b s)) ∧
    (s.frm.fs = .start → b = true → exec .frStartFalse s = .next (runFramer b s)) ∧
    (s.frm.fs = .data → exec (.frData b) s = .next (runFramer b s)) ∧
    (s.frm.fs = .stop → b = true → exec .frStopOk s = .next (runFramer b s)) ∧
    (s.frm.fs = .stop → b = false → exec .frStopBad s = .next (runFramer b s)) ∧
    (∀ i, selectFramer s.frm.fs b = some i → exec i s = .next (runFramer b s))

/-- A whole line frame that finds the framer idle in a live session brings its byte, least significant bit first, to
the decoder, and leaves the framer idle; after a terminal outcome the block does not change (30_encoding.md R80, R84,
43 R178). The trace outputs show the byte of this frame and nothing older (10_state.md R42). The bit-level reading,
`inv` untouched, is log 6; that no bit is shown is log 12. -/
def Obligations.FrameDeliversItsByte : Prop :=
  (∀ (v : Byte) (s : State), s.cfg.NSTOP = 1 ∨ s.cfg.NSTOP = 2 → s.frm.fs = .idle → terminal s.dec.ds = false →
    exec (.frame v) s = .next { s with
      frm := { fs := .idle, nb := 8, ns := BitVec.ofNat 2 s.cfg.NSTOP, sr := v }
      trace := { bit := none, byte := some v }
      dec := decodeByteEvent s.cfg v s.dec }) ∧
  (∀ (v : Byte) (s : State), terminal s.dec.ds = true →
    exec (.frame v) s = .next { s with trace := { bit := none, byte := none } })

/-! ## The decoder -/

/-- OVF: a byte that meets a full buffer in a live session ends it with MalformedMessage; nothing is stored or
summed (44 R193). -/
def Obligations.OverflowRaisesMalformed : Prop :=
  ∀ (v : Byte) (s : State), terminal s.dec.ds = false → s.dec.msglen.toNat = s.cfg.MSG_MAX →
    exec (.ovf v) s = .next { s with dec := { s.dec with ds := .malformed } }

/-- APPEND: the byte is stored at `msglen`, counted, and summed unless the state is `DS_CK` (44 R192). -/
def Obligations.AppendStoresAndSums : Prop :=
  ∀ (v : Byte) (s : State), terminal s.dec.ds = false → s.dec.msglen.toNat ≠ s.cfg.MSG_MAX →
    exec (.append v) s = .next { s with
      dec := if s.dec.ds = .ck then storedOnly v s.dec else storedAndSummed v s.dec }

/-- MT.MDMF and MT.SDMF mark the format and go to MessageLength (44 R195, R196). -/
def Obligations.MessageTypeMarksTheFormat : Prop :=
  ∀ s : State, byteMeets .mt s →
    exec .mtMdmf s = .next { s with dec := { storedAndSummed 0x80 s.dec with fmt := .mdmf, ds := .ml } } ∧
    exec .mtSdmf s = .next { s with dec := { storedAndSummed 0x04 s.dec with fmt := .sdmf, ds := .ml } }

/-- MT.OTHER and DT.OTHER end the session with UnknownFormat, the offending byte stored and summed, the rest of the
state kept; as the first byte of a session it is all there is in the buffer (44 R197, R204). -/
def Obligations.UnknownBytesEndTheSession : Prop :=
  (∀ (v : Byte) (s : State), byteMeets .mt s →
    exec (.mtOther v) s = .next { s with dec := { storedAndSummed v s.dec with ds := .unknown } }) ∧
  (∀ (v : Byte) (s t : State), s.dec = resetDecoder → 3 ≤ s.cfg.MSG_MAX → exec (.mtOther v) s = .next t →
    t.dec.ds = .unknown ∧ t.dec.fmt = .none ∧ t.dec.mlen = 0 ∧ t.dec.cnt = 0 ∧ t.dec.nameseen = false ∧
    t.dec.numseen = false ∧ t.dec.msglen = 1 ∧ t.dec.cks = v ∧ memRead t.dec 0 = v) ∧
  (∀ (v : Byte) (s : State), byteMeets .dt s →
    exec (.dtOther v) s = .next { s with dec := { storedAndSummed v s.dec with ds := .unknown } })

/-- ML.ANY records the length byte and goes to DataType (44 R198). -/
def Obligations.LengthByteIsRecorded : Prop :=
  ∀ (v : Byte) (s : State), byteMeets .ml s →
    exec (.mlAny v) s = .next { s with dec := { storedAndSummed v s.dec with mlen := v, ds := .dt } }

/-- The five recognised data types set their flag and go to DataLength (44 R199 to R203). -/
def Obligations.DataTypeSetsItsFlag : Prop :=
  ∀ s : State, byteMeets .dt s →
    exec .dtDate s = .next { s with dec := { storedAndSummed 0x01 s.dec with ds := .dl } } ∧
    exec .dtNumber s = .next { s with dec := { storedAndSummed 0x02 s.dec with numseen := true, ds := .dl } } ∧
    exec .dtNonumber s = .next { s with dec := { storedAndSummed 0x04 s.dec with numseen := true, ds := .dl } } ∧
    exec .dtName s = .next { s with dec := { storedAndSummed 0x07 s.dec with nameseen := true, ds := .dl } } ∧
    exec .dtNoname s = .next { s with dec := { storedAndSummed 0x08 s.dec with nameseen := true, ds := .dl } }

/-- DL.ANY loads the counter; a length of 0 ends the field at once by the completion test (44 R205, R206). -/
def Obligations.FieldLengthOpensOrEndsTheField : Prop :=
  ∀ (v : Byte) (s : State), byteMeets .dl s →
    (v ≠ 0 → exec (.dlAny v) s = .next { s with dec := { storedAndSummed v s.dec with cnt := v, ds := .data } }) ∧
    (v = 0 → fieldsComplete s.dec →
      exec (.dlAny v) s = .next { s with dec := { storedAndSummed v s.dec with cnt := 0, ds := .ck } }) ∧
    (v = 0 → ¬ fieldsComplete s.dec →
      exec (.dlAny v) s = .next { s with dec := { storedAndSummed v s.dec with cnt := 0, ds := .dt } })

/-- DATA.ANY counts one byte off; the last one ends the field by the completion test (44 R206, R207). -/
def Obligations.DataByteCountsDown : Prop :=
  ∀ (v : Byte) (s : State), byteMeets .data s →
    (s.dec.cnt ≠ 1 →
      exec (.dataAny v) s = .next { s with dec := { storedAndSummed v s.dec with cnt := s.dec.cnt - 1 } }) ∧
    (s.dec.cnt = 1 → fieldsComplete s.dec →
      exec (.dataAny v) s = .next { s with dec := { storedAndSummed v s.dec with cnt := 0, ds := .ck } }) ∧
    (s.dec.cnt = 1 → ¬ fieldsComplete s.dec →
      exec (.dataAny v) s = .next { s with dec := { storedAndSummed v s.dec with cnt := 0, ds := .dt } })

/-- CK.ANY: the byte is stored and not summed, `lenbad` compares the recorded length, and the outcome is Complete
exactly when the byte is `(256 - cks) mod 256`, else ChecksumFailed (44 R209). -/
def Obligations.ChecksumByteDecidesTheOutcome : Prop :=
  ∀ (v : Byte) (s : State), byteMeets .ck s →
    exec (.ckAny v) s = .next { s with dec := { storedOnly v s.dec with
      lenbad := decide ((s.dec.mlen.toNat : Int) ≠ ((s.dec.msglen + 1).toNat : Int) - 3)
      ds := if v.toNat = (256 - s.dec.cks.toNat) % 256 then .complete else .ckfail } }

/-- DECODER(v) is, in every state and for every byte, the one operation of R190's selection, and nothing in a
terminal state (44 R190, R191, R193). -/
def Obligations.DecoderTableSelectsTheOperation : Prop :=
  ∀ (v : Byte) (s : State),
    (terminal s.dec.ds = true → decodeByteEvent s.cfg v s.dec = s.dec) ∧
    (terminal s.dec.ds = false →
      ∃ i, selectDecoder s.dec.ds (decide (s.dec.msglen.toNat = s.cfg.MSG_MAX)) v = some i ∧
        i.wellFormed = true ∧ exec i s = .next { s with dec := decodeByteEvent s.cfg v s.dec })

/-- Checksum law: for every byte sequence that brings the decoder to `DS_CK` from reset, the next byte gives Complete
exactly when it is `(256 - S) mod 256`, `S` the sum of the sequence mod 256, and any other gives ChecksumFailed
(44 R211); where the buffer has no room for it, the outcome is MalformedMessage (44 R193, 60 R247). -/
def Obligations.ChecksumLaw : Prop :=
  ∀ (c : Config) (bs : List Byte) (v : Byte), (decodeBytes c bs resetDecoder).ds = .ck →
    ((decodeBytes c bs resetDecoder).msglen.toNat ≠ c.MSG_MAX →
      ((decodeBytes c (bs ++ [v]) resetDecoder).ds = .complete ↔
        v.toNat = (256 - (bs.map BitVec.toNat).sum % 256) % 256) ∧
      ((decodeBytes c (bs ++ [v]) resetDecoder).ds = .ckfail ↔
        v.toNat ≠ (256 - (bs.map BitVec.toNat).sum % 256) % 256)) ∧
    ((decodeBytes c bs resetDecoder).msglen.toNat = c.MSG_MAX →
      (decodeBytes c (bs ++ [v]) resetDecoder).ds = .malformed)

/-! ## Messages and records -/

/-- An SDMF message with a number field, whatever length byte, whatever other groups before the number group that are
no number or no-number group, wherever it fits the message buffer: with its checksum it is decoded to Complete, its
bytes stand in the buffer in arrival order, `lenbad` says whether the length byte is right, and with no bad date/time
group EXTRACT gives a record with the number's digits exactly, the other fields empty where there is no other group
(44 R214 (a)). -/
def Obligations.SdmfNumberMessageCompletes : Prop :=
  ∀ (c : Config) (gs : List (Byte × List Byte)) (digits : List Byte) (len ck : Byte), c.valid = true →
    (∀ g ∈ gs, g.1 ∈ [(0x01 : Byte), 0x07, 0x08] ∧ g.2.length ≤ 255) → digits.length ≤ 255 →
    let head : List Byte := [0x04, len] ++ groupsBytes gs ++ [0x02, BitVec.ofNat 8 digits.length] ++ digits
    head.length + 1 ≤ c.MSG_MAX → isChecksumOf ck head →
    let d := decodeBytes c (head ++ [ck]) resetDecoder
    d.ds = .complete ∧ messageBytes d = head ++ [ck] ∧
    d.lenbad = decide ((len.toNat : Int) ≠ (head.length : Int) - 2) ∧
    ((∀ g ∈ gs, g.1 = 0x01 → dateTime g.2 ≠ none) → 255 ≤ c.FIELD_MAX →
      ∃ r : CidRecord, extractBytes c.FIELD_MAX (messageBytes d) = .record r ∧ r.number = digits ∧
        (gs = [] → r = { date := [], time := [], name := [], number := digits }))

/-- Order independence: with a date/time group first, a name or no-name group and a number or no-number group give
the same result of EXTRACT in either order, and it is the record of the three fields where the date is good
(45 R228). And an MDMF message of these groups that fits the message buffer is decoded to Complete in either order,
with the same feed result (44 R214 (b), 40 R121). -/
def Obligations.RecordDoesNotDependOnFieldOrder : Prop :=
  ∀ (t nt ut : Byte) (date name number : List Byte),
    (nt = 0x07 ∨ nt = 0x08) → (ut = 0x02 ∨ ut = 0x04) →
    date.length ≤ 255 → name.length ≤ 255 → number.length ≤ 255 →
    let nameFirst := groupsBytes [(0x01, date), (nt, name), (ut, number)]
    let numberFirst := groupsBytes [(0x01, date), (ut, number), (nt, name)]
    (∀ (fieldMax : Nat) (len ck ck' : Byte),
      extractBytes fieldMax ([t, len] ++ nameFirst ++ [ck]) =
        extractBytes fieldMax ([t, len] ++ numberFirst ++ [ck']) ∧
      (∀ dt : List Byte × List Byte, dateTime date = some dt →
        extractBytes fieldMax ([t, len] ++ nameFirst ++ [ck]) = .record
          { date := dt.1, time := dt.2
            name := if nt = 0x07 then name.take fieldMax else []
            number := if ut = 0x02 then number.take fieldMax else [] })) ∧
    (∀ (s : State) (len ck ck' : Byte), s.cfg.valid = true → 3 + nameFirst.length ≤ s.cfg.MSG_MAX →
      isChecksumOf ck ([0x80, len] ++ nameFirst) → isChecksumOf ck' ([0x80, len] ++ numberFirst) →
      let u : State := { s with dec := decodeBytes s.cfg ([0x80, len] ++ nameFirst ++ [ck]) resetDecoder }
      let v : State := { s with dec := decodeBytes s.cfg ([0x80, len] ++ numberFirst ++ [ck']) resetDecoder }
      u.dec.ds = .complete ∧ v.dec.ds = .complete ∧
      messageBytes u.dec = [0x80, len] ++ nameFirst ++ [ck] ∧
      messageBytes v.dec = [0x80, len] ++ numberFirst ++ [ck'] ∧
      feedResult u = feedResult v ∧
      (∀ dt : List Byte × List Byte, dateTime date = some dt → feedResult u = .complete
        { date := dt.1, time := dt.2
          name := if nt = 0x07 then name.take s.cfg.FIELD_MAX else []
          number := if ut = 0x02 then number.take s.cfg.FIELD_MAX else [] }))

/-- On a message the decoder completed, the groups tile the bytes between the length byte and the checksum byte, each
of a recognised type; so EXTRACT fails only on a date/time group (45 R227, 44 R212). -/
def Obligations.CompleteMessageIsTiledByGroups : Prop :=
  ∀ (c : Config) (bs : List Byte), c.valid = true → (decodeBytes c bs resetDecoder).ds = .complete →
    ∃ (ty len ck : Byte) (groups : List (Byte × List Byte)),
      (ty = 0x80 ∨ ty = 0x04) ∧ groups ≠ [] ∧
      (∀ g ∈ groups, g.1 ∈ [(0x01 : Byte), 0x02, 0x04, 0x07, 0x08] ∧ g.2.length ≤ 255) ∧
      messageBytes (decodeBytes c bs resetDecoder) =
        [ty, len] ++ groups.flatMap (fun g => g.1 :: BitVec.ofNat 8 g.2.length :: g.2) ++ [ck] ∧
      ((∀ g ∈ groups, g.1 = 0x01 → dateTime g.2 ≠ none) →
        ∃ r, extractBytes c.FIELD_MAX (messageBytes (decodeBytes c bs resetDecoder)) = .record r)

/-- EXTRACT answers MalformedMessage exactly in R225's cases: fewer than three bytes, or after some accepted groups a
place where a group should start and fails. Accepted groups give their record, a later occurrence of a field
replacing an earlier one (45 R221, R226). DATETIME fails exactly on fewer than eight bytes, a month character that is
no digit or a month outside 1 to 12, and otherwise gives R223's strings. -/
def Obligations.ExtractFailsExactlyOnMalformedMessages : Prop :=
  (∀ (fieldMax : Nat) (m : List Byte), extractBytes fieldMax m = .malformedMessage ↔
    m.length < 3 ∨ ∃ (ty len ck : Byte) (gs : List (Byte × List Byte)) (rest : List Byte),
      m = [ty, len] ++ groupsBytes gs ++ rest ++ [ck] ∧ (∀ g ∈ gs, acceptedGroup g) ∧ groupFails rest) ∧
  (∀ (fieldMax : Nat) (ty len ck : Byte) (gs : List (Byte × List Byte)), (∀ g ∈ gs, acceptedGroup g) →
    extractBytes fieldMax ([ty, len] ++ groupsBytes gs ++ [ck]) =
      .record (gs.foldl (intoRecord fieldMax) { date := [], time := [], name := [], number := [] })) ∧
  (∀ body : List Byte, body.length < 8 → dateTime body = none) ∧
  (∀ (m0 m1 d0 d1 h0 h1 n0 n1 : Byte) (more : List Byte),
    let month := (m0.toNat - 0x30) * 10 + (m1.toNat - 0x30)
    dateTime (m0 :: m1 :: d0 :: d1 :: h0 :: h1 :: n0 :: n1 :: more) =
      if 0x30 ≤ m0.toNat ∧ m0.toNat ≤ 0x39 ∧ 0x30 ≤ m1.toNat ∧ m1.toNat ≤ 0x39 ∧ 1 ≤ month ∧ month ≤ 12 then
        some (monthNames.getD (month - 1) [] ++ [0x20, d0, d1],
          [h0, h1, 0x20, 0x68, 0x72, 0x20, 0x3A, 0x20, n0, n1, 0x20, 0x6D, 0x69, 0x6E])
      else none)
end

