-- ==== Sys2Proof/Laws/Memory.lean ====
section
/-! SUPPORT. The message buffer: every operation on it keeps the canonical form, a read after a write to the same
index gives the byte written, and a write leaves every other index alone. -/

namespace Sys2Proof.Machine

@[simp] theorem Memory.read_nil (a : Nat) : Memory.read [] a = memDefault := rfl

theorem Memory.wf_nil : Memory.wf [] := ⟨List.Pairwise.nil, by simp⟩

/-- The tail of a canonical buffer is canonical. -/
theorem Memory.wf_tail {e : Host.Cell} {m : Memory} (h : Memory.wf (e :: m)) : Memory.wf m :=
  ⟨(List.pairwise_cons.1 h.1).2, fun x hx => h.2 x (List.mem_cons_of_mem _ hx)⟩

/-- Where a canonical buffer starts above an index, that index is not listed. -/
theorem Memory.read_of_lt {m : Memory} {a : Nat} (h : ∀ e ∈ m, a < e.1) : Memory.read m a = memDefault := by
  induction m with
  | nil => rfl
  | cons e m ih =>
    obtain ⟨b, u⟩ := e
    have hb : a < b := h (b, u) (List.mem_cons_self ..)
    simp only [Memory.read, if_neg (show ¬ b = a by omega)]
    exact ih fun x hx => h x (List.mem_cons_of_mem _ hx)

/-- What a write lists was listed before or is the byte written. -/
theorem Memory.mem_write {m : Memory} {a : Nat} {v : Byte} {e : Host.Cell} (h : e ∈ Memory.write m a v) :
    (e = (a, v) ∧ v ≠ memDefault) ∨ e ∈ m := by
  induction m with
  | nil =>
    simp only [Memory.write] at h
    split at h
    · simp at h
    · left; simpa using ⟨by simpa using h, by assumption⟩
  | cons x m ih =>
    obtain ⟨b, u⟩ := x
    simp only [Memory.write] at h
    split at h
    · split at h
      · exact .inr h
      · rcases List.mem_cons.1 h with rfl | h
        · exact .inl ⟨rfl, by assumption⟩
        · exact .inr h
    · split at h
      · split at h
        · exact .inr (List.mem_cons_of_mem _ h)
        · rcases List.mem_cons.1 h with rfl | h
          · exact .inl ⟨rfl, by assumption⟩
          · exact .inr (List.mem_cons_of_mem _ h)
      · rcases List.mem_cons.1 h with rfl | h
        · exact .inr (List.mem_cons_self ..)
        · rcases ih h with h | h
          · exact .inl h
          · exact .inr (List.mem_cons_of_mem _ h)

/-- A write keeps the canonical form. -/
theorem Memory.write_wf {m : Memory} (a : Nat) (v : Byte) (h : Memory.wf m) : Memory.wf (Memory.write m a v) := by
  induction m with
  | nil =>
    simp only [Memory.write]
    split
    · exact Memory.wf_nil
    · exact ⟨by simp, by simpa using ‹_›⟩
  | cons x m ih =>
    obtain ⟨b, u⟩ := x
    have hp := List.pairwise_cons.1 h.1
    simp only [Memory.write]
    split
    · rename_i hab
      split
      · exact h
      · rename_i hv
        refine ⟨List.pairwise_cons.2 ⟨fun e he => ?_, h.1⟩, fun e he => ?_⟩
        · rcases List.mem_cons.1 he with rfl | he
          · exact hab
          · exact Nat.lt_trans hab (hp.1 e he)
        · rcases List.mem_cons.1 he with rfl | he
          · exact hv
          · exact h.2 e he
    · rename_i hab
      split
      · rename_i hEq
        subst hEq
        split
        · exact Memory.wf_tail h
        · rename_i hv
          refine ⟨List.pairwise_cons.2 ⟨hp.1, hp.2⟩, fun e he => ?_⟩
          rcases List.mem_cons.1 he with rfl | he
          · exact hv
          · exact h.2 e (List.mem_cons_of_mem _ he)
      · rename_i hne
        have hm := ih (Memory.wf_tail h)
        refine ⟨List.pairwise_cons.2 ⟨fun e he => ?_, hm.1⟩, fun e he => ?_⟩
        · rcases Memory.mem_write he with ⟨rfl, -⟩ | he
          · exact show b < a by omega
          · exact hp.1 e he
        · rcases List.mem_cons.1 he with rfl | he
          · exact h.2 _ (List.mem_cons_self ..)
          · exact hm.2 e he

/-- A write leaves every other index alone. -/
theorem Memory.read_write_ne {m : Memory} {a b : Nat} (v : Byte) (h : b ≠ a) :
    Memory.read (Memory.write m a v) b = Memory.read m b := by
  induction m with
  | nil =>
    simp only [Memory.write]
    split
    · rfl
    · simp [Memory.read, Ne.symm h]
  | cons x m ih =>
    obtain ⟨c, u⟩ := x
    simp only [Memory.write]
    split
    · split
      · rfl
      · simp [Memory.read, Ne.symm h]
    · split
      · rename_i hEq
        subst hEq
        split <;> simp [Memory.read, Ne.symm h]
      · simp only [Memory.read, ih]

/-- A read after a write to the same index gives the byte written. -/
theorem Memory.read_write_self {m : Memory} (a : Nat) (v : Byte) (h : Memory.wf m) :
    Memory.read (Memory.write m a v) a = v := by
  induction m with
  | nil =>
    simp only [Memory.write]
    split
    · rename_i hv; simp [Memory.read, hv]
    · simp [Memory.read]
  | cons x m ih =>
    obtain ⟨c, u⟩ := x
    have hp := List.pairwise_cons.1 h.1
    simp only [Memory.write]
    split
    · rename_i hac
      split
      · rename_i hv
        rw [hv]
        refine Memory.read_of_lt fun e he => ?_
        rcases List.mem_cons.1 he with rfl | he
        · exact hac
        · exact Nat.lt_trans hac (hp.1 e he)
      · simp [Memory.read]
    · split
      · rename_i hEq
        subst hEq
        split
        · rename_i hv
          rw [hv]
          exact Memory.read_of_lt hp.1
        · simp [Memory.read]
      · rename_i hne
        rw [Memory.read, if_neg (Ne.symm hne)]
        exact ih (Memory.wf_tail h)

/-- A write, read back, in one line. -/
theorem Memory.read_write {m : Memory} (a b : Nat) (v : Byte) (h : Memory.wf m) :
    Memory.read (Memory.write m a v) b = if b = a then v else Memory.read m b := by
  split
  · rename_i hEq; rw [hEq, Memory.read_write_self a v h]
  · exact Memory.read_write_ne v ‹_›

/-- The buffer after reset is canonical. -/
theorem State.reset_buffer_wf : Memory.wf State.reset.dec.msgbuf := Memory.wf_nil

end Sys2Proof.Machine
end

