-- ==== Sys2Proof/Laws/State.lean ====
section
/-! SUPPORT. One lemma per field of State and per update, true by rfl. -/

namespace Sys2Proof.Machine

@[simp] theorem State.setInp_cfg (s : State) (v : InputStage) : (s.setInp v).cfg = s.cfg := rfl
@[simp] theorem State.setInp_inp (s : State) (v : InputStage) : (s.setInp v).inp = v := rfl
@[simp] theorem State.setInp_disc (s : State) (v : InputStage) : (s.setInp v).disc = s.disc := rfl
@[simp] theorem State.setInp_pll (s : State) (v : InputStage) : (s.setInp v).pll = s.pll := rfl
@[simp] theorem State.setInp_frm (s : State) (v : InputStage) : (s.setInp v).frm = s.frm := rfl
@[simp] theorem State.setInp_dec (s : State) (v : InputStage) : (s.setInp v).dec = s.dec := rfl
@[simp] theorem State.setInp_trace (s : State) (v : InputStage) : (s.setInp v).trace = s.trace := rfl
@[simp] theorem State.setInp_wires (s : State) (v : InputStage) : (s.setInp v).wires = s.wires := rfl
@[simp] theorem State.setInp_host (s : State) (v : InputStage) : (s.setInp v).host = s.host := rfl
@[simp] theorem State.setInp_pending (s : State) (v : InputStage) : (s.setInp v).pending = s.pending := rfl
@[simp] theorem State.setInp_setInp (s : State) (u v : InputStage) : (s.setInp u).setInp v = s.setInp v := rfl
@[simp] theorem State.setInp_self (s : State) : s.setInp s.inp = s := rfl

@[simp] theorem State.setDisc_cfg (s : State) (v : DiscState) : (s.setDisc v).cfg = s.cfg := rfl
@[simp] theorem State.setDisc_inp (s : State) (v : DiscState) : (s.setDisc v).inp = s.inp := rfl
@[simp] theorem State.setDisc_disc (s : State) (v : DiscState) : (s.setDisc v).disc = v := rfl
@[simp] theorem State.setDisc_pll (s : State) (v : DiscState) : (s.setDisc v).pll = s.pll := rfl
@[simp] theorem State.setDisc_frm (s : State) (v : DiscState) : (s.setDisc v).frm = s.frm := rfl
@[simp] theorem State.setDisc_dec (s : State) (v : DiscState) : (s.setDisc v).dec = s.dec := rfl
@[simp] theorem State.setDisc_trace (s : State) (v : DiscState) : (s.setDisc v).trace = s.trace := rfl
@[simp] theorem State.setDisc_wires (s : State) (v : DiscState) : (s.setDisc v).wires = s.wires := rfl
@[simp] theorem State.setDisc_host (s : State) (v : DiscState) : (s.setDisc v).host = s.host := rfl
@[simp] theorem State.setDisc_pending (s : State) (v : DiscState) : (s.setDisc v).pending = s.pending := rfl
@[simp] theorem State.setDisc_setDisc (s : State) (u v : DiscState) : (s.setDisc u).setDisc v = s.setDisc v := rfl
@[simp] theorem State.setDisc_self (s : State) : s.setDisc s.disc = s := rfl

@[simp] theorem State.setPll_cfg (s : State) (v : Pll) : (s.setPll v).cfg = s.cfg := rfl
@[simp] theorem State.setPll_inp (s : State) (v : Pll) : (s.setPll v).inp = s.inp := rfl
@[simp] theorem State.setPll_disc (s : State) (v : Pll) : (s.setPll v).disc = s.disc := rfl
@[simp] theorem State.setPll_pll (s : State) (v : Pll) : (s.setPll v).pll = v := rfl
@[simp] theorem State.setPll_frm (s : State) (v : Pll) : (s.setPll v).frm = s.frm := rfl
@[simp] theorem State.setPll_dec (s : State) (v : Pll) : (s.setPll v).dec = s.dec := rfl
@[simp] theorem State.setPll_trace (s : State) (v : Pll) : (s.setPll v).trace = s.trace := rfl
@[simp] theorem State.setPll_wires (s : State) (v : Pll) : (s.setPll v).wires = s.wires := rfl
@[simp] theorem State.setPll_host (s : State) (v : Pll) : (s.setPll v).host = s.host := rfl
@[simp] theorem State.setPll_pending (s : State) (v : Pll) : (s.setPll v).pending = s.pending := rfl
@[simp] theorem State.setPll_setPll (s : State) (u v : Pll) : (s.setPll u).setPll v = s.setPll v := rfl
@[simp] theorem State.setPll_self (s : State) : s.setPll s.pll = s := rfl

@[simp] theorem State.setFrm_cfg (s : State) (v : Framer) : (s.setFrm v).cfg = s.cfg := rfl
@[simp] theorem State.setFrm_inp (s : State) (v : Framer) : (s.setFrm v).inp = s.inp := rfl
@[simp] theorem State.setFrm_disc (s : State) (v : Framer) : (s.setFrm v).disc = s.disc := rfl
@[simp] theorem State.setFrm_pll (s : State) (v : Framer) : (s.setFrm v).pll = s.pll := rfl
@[simp] theorem State.setFrm_frm (s : State) (v : Framer) : (s.setFrm v).frm = v := rfl
@[simp] theorem State.setFrm_dec (s : State) (v : Framer) : (s.setFrm v).dec = s.dec := rfl
@[simp] theorem State.setFrm_trace (s : State) (v : Framer) : (s.setFrm v).trace = s.trace := rfl
@[simp] theorem State.setFrm_wires (s : State) (v : Framer) : (s.setFrm v).wires = s.wires := rfl
@[simp] theorem State.setFrm_host (s : State) (v : Framer) : (s.setFrm v).host = s.host := rfl
@[simp] theorem State.setFrm_pending (s : State) (v : Framer) : (s.setFrm v).pending = s.pending := rfl
@[simp] theorem State.setFrm_setFrm (s : State) (u v : Framer) : (s.setFrm u).setFrm v = s.setFrm v := rfl
@[simp] theorem State.setFrm_self (s : State) : s.setFrm s.frm = s := rfl

@[simp] theorem State.setDec_cfg (s : State) (v : Decoder) : (s.setDec v).cfg = s.cfg := rfl
@[simp] theorem State.setDec_inp (s : State) (v : Decoder) : (s.setDec v).inp = s.inp := rfl
@[simp] theorem State.setDec_disc (s : State) (v : Decoder) : (s.setDec v).disc = s.disc := rfl
@[simp] theorem State.setDec_pll (s : State) (v : Decoder) : (s.setDec v).pll = s.pll := rfl
@[simp] theorem State.setDec_frm (s : State) (v : Decoder) : (s.setDec v).frm = s.frm := rfl
@[simp] theorem State.setDec_dec (s : State) (v : Decoder) : (s.setDec v).dec = v := rfl
@[simp] theorem State.setDec_trace (s : State) (v : Decoder) : (s.setDec v).trace = s.trace := rfl
@[simp] theorem State.setDec_wires (s : State) (v : Decoder) : (s.setDec v).wires = s.wires := rfl
@[simp] theorem State.setDec_host (s : State) (v : Decoder) : (s.setDec v).host = s.host := rfl
@[simp] theorem State.setDec_pending (s : State) (v : Decoder) : (s.setDec v).pending = s.pending := rfl
@[simp] theorem State.setDec_setDec (s : State) (u v : Decoder) : (s.setDec u).setDec v = s.setDec v := rfl
@[simp] theorem State.setDec_self (s : State) : s.setDec s.dec = s := rfl

@[simp] theorem State.setTrace_cfg (s : State) (v : Trace) : (s.setTrace v).cfg = s.cfg := rfl
@[simp] theorem State.setTrace_inp (s : State) (v : Trace) : (s.setTrace v).inp = s.inp := rfl
@[simp] theorem State.setTrace_disc (s : State) (v : Trace) : (s.setTrace v).disc = s.disc := rfl
@[simp] theorem State.setTrace_pll (s : State) (v : Trace) : (s.setTrace v).pll = s.pll := rfl
@[simp] theorem State.setTrace_frm (s : State) (v : Trace) : (s.setTrace v).frm = s.frm := rfl
@[simp] theorem State.setTrace_dec (s : State) (v : Trace) : (s.setTrace v).dec = s.dec := rfl
@[simp] theorem State.setTrace_trace (s : State) (v : Trace) : (s.setTrace v).trace = v := rfl
@[simp] theorem State.setTrace_wires (s : State) (v : Trace) : (s.setTrace v).wires = s.wires := rfl
@[simp] theorem State.setTrace_host (s : State) (v : Trace) : (s.setTrace v).host = s.host := rfl
@[simp] theorem State.setTrace_pending (s : State) (v : Trace) : (s.setTrace v).pending = s.pending := rfl
@[simp] theorem State.setTrace_setTrace (s : State) (u v : Trace) : (s.setTrace u).setTrace v = s.setTrace v := rfl
@[simp] theorem State.setTrace_self (s : State) : s.setTrace s.trace = s := rfl

@[simp] theorem State.setWires_cfg (s : State) (v : Wires) : (s.setWires v).cfg = s.cfg := rfl
@[simp] theorem State.setWires_inp (s : State) (v : Wires) : (s.setWires v).inp = s.inp := rfl
@[simp] theorem State.setWires_disc (s : State) (v : Wires) : (s.setWires v).disc = s.disc := rfl
@[simp] theorem State.setWires_pll (s : State) (v : Wires) : (s.setWires v).pll = s.pll := rfl
@[simp] theorem State.setWires_frm (s : State) (v : Wires) : (s.setWires v).frm = s.frm := rfl
@[simp] theorem State.setWires_dec (s : State) (v : Wires) : (s.setWires v).dec = s.dec := rfl
@[simp] theorem State.setWires_trace (s : State) (v : Wires) : (s.setWires v).trace = s.trace := rfl
@[simp] theorem State.setWires_wires (s : State) (v : Wires) : (s.setWires v).wires = v := rfl
@[simp] theorem State.setWires_host (s : State) (v : Wires) : (s.setWires v).host = s.host := rfl
@[simp] theorem State.setWires_pending (s : State) (v : Wires) : (s.setWires v).pending = s.pending := rfl
@[simp] theorem State.setWires_setWires (s : State) (u v : Wires) : (s.setWires u).setWires v = s.setWires v := rfl
@[simp] theorem State.setWires_self (s : State) : s.setWires s.wires = s := rfl

@[simp] theorem State.setHost_cfg (s : State) (v : HostView) : (s.setHost v).cfg = s.cfg := rfl
@[simp] theorem State.setHost_inp (s : State) (v : HostView) : (s.setHost v).inp = s.inp := rfl
@[simp] theorem State.setHost_disc (s : State) (v : HostView) : (s.setHost v).disc = s.disc := rfl
@[simp] theorem State.setHost_pll (s : State) (v : HostView) : (s.setHost v).pll = s.pll := rfl
@[simp] theorem State.setHost_frm (s : State) (v : HostView) : (s.setHost v).frm = s.frm := rfl
@[simp] theorem State.setHost_dec (s : State) (v : HostView) : (s.setHost v).dec = s.dec := rfl
@[simp] theorem State.setHost_trace (s : State) (v : HostView) : (s.setHost v).trace = s.trace := rfl
@[simp] theorem State.setHost_wires (s : State) (v : HostView) : (s.setHost v).wires = s.wires := rfl
@[simp] theorem State.setHost_host (s : State) (v : HostView) : (s.setHost v).host = v := rfl
@[simp] theorem State.setHost_pending (s : State) (v : HostView) : (s.setHost v).pending = s.pending := rfl
@[simp] theorem State.setHost_setHost (s : State) (u v : HostView) : (s.setHost u).setHost v = s.setHost v := rfl
@[simp] theorem State.setHost_self (s : State) : s.setHost s.host = s := rfl

@[simp] theorem State.setPending_cfg (s : State) (v : List OpWord) : (s.setPending v).cfg = s.cfg := rfl
@[simp] theorem State.setPending_inp (s : State) (v : List OpWord) : (s.setPending v).inp = s.inp := rfl
@[simp] theorem State.setPending_disc (s : State) (v : List OpWord) : (s.setPending v).disc = s.disc := rfl
@[simp] theorem State.setPending_pll (s : State) (v : List OpWord) : (s.setPending v).pll = s.pll := rfl
@[simp] theorem State.setPending_frm (s : State) (v : List OpWord) : (s.setPending v).frm = s.frm := rfl
@[simp] theorem State.setPending_dec (s : State) (v : List OpWord) : (s.setPending v).dec = s.dec := rfl
@[simp] theorem State.setPending_trace (s : State) (v : List OpWord) : (s.setPending v).trace = s.trace := rfl
@[simp] theorem State.setPending_wires (s : State) (v : List OpWord) : (s.setPending v).wires = s.wires := rfl
@[simp] theorem State.setPending_host (s : State) (v : List OpWord) : (s.setPending v).host = s.host := rfl
@[simp] theorem State.setPending_pending (s : State) (v : List OpWord) : (s.setPending v).pending = v := rfl
@[simp] theorem State.setPending_setPending (s : State) (u v : List OpWord) : (s.setPending u).setPending v = s.setPending v := rfl
@[simp] theorem State.setPending_self (s : State) : s.setPending s.pending = s := rfl

end Sys2Proof.Machine
end

