-- ==== Sys2Proof/Laws/Ops.lean ====
section
/-! SUPPORT. The shared operations: what each can do, said once. -/

namespace Sys2Proof.Machine

/-- An operation is performed, or nothing changes. -/
theorem performIf_cases {c : Bool} {u s t : State} (h : performIf c u s = .next t) :
    (c = true ∧ t = u) ∨ (c = false ∧ t = s) := by
  cases c
  · exact .inr ⟨rfl, by simpa [performIf, eq_comm] using h⟩
  · exact .inl ⟨rfl, by simpa [performIf, eq_comm] using h⟩

@[simp] theorem performIf_true (u s : State) : performIf true u s = .next u := rfl
@[simp] theorem performIf_false (u s : State) : performIf false u s = .next s := rfl

/-! ## quiet and the trace -/

@[simp] theorem quiet_cfg (s : State) : (quiet s).cfg = s.cfg := rfl
@[simp] theorem quiet_inp (s : State) : (quiet s).inp = s.inp := rfl
@[simp] theorem quiet_disc (s : State) : (quiet s).disc = s.disc := rfl
@[simp] theorem quiet_pll (s : State) : (quiet s).pll = s.pll := rfl
@[simp] theorem quiet_frm (s : State) : (quiet s).frm = s.frm := rfl
@[simp] theorem quiet_dec (s : State) : (quiet s).dec = s.dec := rfl
@[simp] theorem quiet_trace (s : State) : (quiet s).trace = noTrace := rfl
@[simp] theorem quiet_wires (s : State) : (quiet s).wires = s.wires := rfl
@[simp] theorem quiet_host (s : State) : (quiet s).host = s.host := rfl
@[simp] theorem quiet_pending (s : State) : (quiet s).pending = s.pending := rfl

@[simp] theorem emitBit_cfg (b : Bool) (s : State) : (emitBit b s).cfg = s.cfg := rfl
@[simp] theorem emitBit_inp (b : Bool) (s : State) : (emitBit b s).inp = s.inp := rfl
@[simp] theorem emitBit_disc (b : Bool) (s : State) : (emitBit b s).disc = s.disc := rfl
@[simp] theorem emitBit_pll (b : Bool) (s : State) : (emitBit b s).pll = s.pll := rfl
@[simp] theorem emitBit_frm (b : Bool) (s : State) : (emitBit b s).frm = s.frm := rfl
@[simp] theorem emitBit_dec (b : Bool) (s : State) : (emitBit b s).dec = s.dec := rfl
@[simp] theorem emitBit_trace (b : Bool) (s : State) : (emitBit b s).trace = { s.trace with bit := some b } := rfl
@[simp] theorem emitBit_wires (b : Bool) (s : State) : (emitBit b s).wires = s.wires := rfl
@[simp] theorem emitBit_host (b : Bool) (s : State) : (emitBit b s).host = s.host := rfl
@[simp] theorem emitBit_pending (b : Bool) (s : State) : (emitBit b s).pending = s.pending := rfl

@[simp] theorem emitByte_cfg (v : Byte) (s : State) : (emitByte v s).cfg = s.cfg := rfl
@[simp] theorem emitByte_inp (v : Byte) (s : State) : (emitByte v s).inp = s.inp := rfl
@[simp] theorem emitByte_disc (v : Byte) (s : State) : (emitByte v s).disc = s.disc := rfl
@[simp] theorem emitByte_pll (v : Byte) (s : State) : (emitByte v s).pll = s.pll := rfl
@[simp] theorem emitByte_frm (v : Byte) (s : State) : (emitByte v s).frm = s.frm := rfl
@[simp] theorem emitByte_dec (v : Byte) (s : State) : (emitByte v s).dec = s.dec := rfl
@[simp] theorem emitByte_trace (v : Byte) (s : State) : (emitByte v s).trace = { s.trace with byte := some v } := rfl
@[simp] theorem emitByte_wires (v : Byte) (s : State) : (emitByte v s).wires = s.wires := rfl
@[simp] theorem emitByte_host (v : Byte) (s : State) : (emitByte v s).host = s.host := rfl
@[simp] theorem emitByte_pending (v : Byte) (s : State) : (emitByte v s).pending = s.pending := rfl

/-! ## A new session -/

@[simp] theorem newSession_cfg (s : State) : (newSession s).cfg = s.cfg := rfl
@[simp] theorem newSession_inp (s : State) : (newSession s).inp = resetInput := rfl
@[simp] theorem newSession_disc (s : State) : (newSession s).disc = resetDisc s.cfg := rfl
@[simp] theorem newSession_pll (s : State) : (newSession s).pll = resetPll := rfl
@[simp] theorem newSession_frm (s : State) : (newSession s).frm = resetFramer := rfl
@[simp] theorem newSession_dec (s : State) : (newSession s).dec = resetDecoder := rfl
@[simp] theorem newSession_trace (s : State) : (newSession s).trace = noTrace := rfl
@[simp] theorem newSession_wires (s : State) : (newSession s).wires = resetWires := rfl
@[simp] theorem newSession_host (s : State) : (newSession s).host = s.host := rfl
@[simp] theorem newSession_pending (s : State) : (newSession s).pending = s.pending := rfl

/-! ## Taking a terminal outcome -/

@[simp] theorem raise_ds (o : TerminalOutcome) (d : Decoder) : (raise o d).ds = terminalCode o := rfl
@[simp] theorem raise_fmt (o : TerminalOutcome) (d : Decoder) : (raise o d).fmt = d.fmt := rfl
@[simp] theorem raise_cks (o : TerminalOutcome) (d : Decoder) : (raise o d).cks = d.cks := rfl
@[simp] theorem raise_cnt (o : TerminalOutcome) (d : Decoder) : (raise o d).cnt = d.cnt := rfl
@[simp] theorem raise_msglen (o : TerminalOutcome) (d : Decoder) : (raise o d).msglen = d.msglen := rfl
@[simp] theorem raise_msgbuf (o : TerminalOutcome) (d : Decoder) : (raise o d).msgbuf = d.msgbuf := rfl
@[simp] theorem raise_nameseen (o : TerminalOutcome) (d : Decoder) : (raise o d).nameseen = d.nameseen := rfl
@[simp] theorem raise_numseen (o : TerminalOutcome) (d : Decoder) : (raise o d).numseen = d.numseen := rfl

/-- A raised outcome is terminal (60_exceptions.md R246). -/
@[simp] theorem terminal_terminalCode (o : TerminalOutcome) : terminal (terminalCode o) = true := by
  cases o <;> rfl

end Sys2Proof.Machine
end

