-- ==== Sys2Proof/Laws/Decoder.lean ====
section
/-! SUPPORT. The decoder's shared operations: what APPEND writes, and every case of DECODER. -/

namespace Sys2Proof.Machine

@[simp] theorem appendByte_ds (v : Byte) (d : Decoder) : (appendByte v d).ds = d.ds := rfl
@[simp] theorem appendByte_fmt (v : Byte) (d : Decoder) : (appendByte v d).fmt = d.fmt := rfl
@[simp] theorem appendByte_mlen (v : Byte) (d : Decoder) : (appendByte v d).mlen = d.mlen := rfl
@[simp] theorem appendByte_cnt (v : Byte) (d : Decoder) : (appendByte v d).cnt = d.cnt := rfl
@[simp] theorem appendByte_nameseen (v : Byte) (d : Decoder) : (appendByte v d).nameseen = d.nameseen := rfl
@[simp] theorem appendByte_numseen (v : Byte) (d : Decoder) : (appendByte v d).numseen = d.numseen := rfl
@[simp] theorem appendByte_lenbad (v : Byte) (d : Decoder) : (appendByte v d).lenbad = d.lenbad := rfl
@[simp] theorem appendByte_msglen (v : Byte) (d : Decoder) : (appendByte v d).msglen = d.msglen + 1 := rfl
@[simp] theorem appendByte_msgbuf (v : Byte) (d : Decoder) :
    (appendByte v d).msgbuf = Memory.write d.msgbuf d.msglen.toNat v := rfl

/-- The sum after APPEND, outside `DS_CK` (44 R192). -/
theorem appendByte_cks {v : Byte} {d : Decoder} (h : d.ds ≠ .ck) : (appendByte v d).cks = d.cks + v := by
  simp [appendByte, h]

/-- The sum after APPEND of the checksum byte (44 R192). -/
theorem appendByte_cks_ck {v : Byte} {d : Decoder} (h : d.ds = .ck) : (appendByte v d).cks = d.cks := by
  simp [appendByte, h]

/-- The completion test looks at the tag and the flags only (44 R206). -/
theorem messageDone_congr {d e : Decoder} (hf : e.fmt = d.fmt) (hn : e.nameseen = d.nameseen)
    (hu : e.numseen = d.numseen) : messageDone e = messageDone d := by
  simp [messageDone, hf, hn, hu]

/-- What no operation after APPEND writes: the buffer, its length and the sum (44 R195 to R209). -/
theorem afterAppend_buffer (st : DState) (v : Byte) (d : Decoder) :
    (afterAppend st v d).msgbuf = d.msgbuf ∧ (afterAppend st v d).msglen = d.msglen ∧
    (afterAppend st v d).cks = d.cks := by
  cases st <;> simp only [afterAppend]
  case mt => split <;> [skip; split] <;> simp [markMdmf, markSdmf, unknownType]
  case ml => simp [recordLength]
  case dt =>
    repeat' split
    all_goals simp [dateGroup, numberGroup, noNumberGroup, nameGroup, noNameGroup, unknownGroup]
  case dl => simp only [fieldLength, fieldDone]; split <;> simp
  case data => simp only [countData, fieldDone]; split <;> simp
  case ck => simp only [judge]; split <;> simp
  all_goals simp

/-- Every case of DECODER(v) (44 R190): nothing in a terminal state, OVF on a full buffer, else APPEND and the
operation of the state. -/
theorem decodeByteEvent_cases (c : Config) (v : Byte) (d : Decoder) :
    (terminal d.ds = true ∧ decodeByteEvent c v d = d) ∨
    (terminal d.ds = false ∧ d.msglen.toNat = c.MSG_MAX ∧ decodeByteEvent c v d = ovfRaise d) ∨
    (terminal d.ds = false ∧ d.msglen.toNat ≠ c.MSG_MAX ∧
      decodeByteEvent c v d = afterAppend d.ds v (appendByte v d)) := by
  unfold decodeByteEvent bufferFull
  by_cases ht : terminal d.ds = true
  · exact .inl ⟨ht, by simp [ht]⟩
  · have hf : terminal d.ds = false := by simpa using ht
    by_cases hm : d.msglen.toNat = c.MSG_MAX
    · exact .inr (.inl ⟨hf, hm, by simp [hf, hm]⟩)
    · exact .inr (.inr ⟨hf, hm, by simp [hf, hm]⟩)

/-- A row of the table is performed, or nothing changes (44 R190; log 4). -/
theorem decoderRow_cases {st : DState} {v : Byte} {body : Decoder → Decoder} {s t : State}
    (h : decoderRow st v body s = .next t) :
    (terminal s.dec.ds = false ∧ s.dec.ds = st ∧ s.dec.msglen.toNat ≠ s.cfg.MSG_MAX ∧
      t = s.setDec (body (appendByte v s.dec))) ∨ t = s := by
  rcases performIf_cases h with ⟨hc, rfl⟩ | ⟨-, rfl⟩
  · simp only [takesByte, bufferFull, Bool.and_eq_true, Bool.not_eq_true', decide_eq_false_iff_not, beq_iff_eq] at hc
    exact .inl ⟨hc.1.1, hc.2, hc.1.2, rfl⟩
  · exact .inr rfl

/-- A row of the table is performed in its state with room in the buffer (44 R190). -/
theorem decoderRow_performed {st : DState} (v : Byte) (body : Decoder → Decoder) {s : State}
    (hs : s.dec.ds = st) (ht : terminal st = false) (hm : s.dec.msglen.toNat ≠ s.cfg.MSG_MAX) :
    decoderRow st v body s = .next (s.setDec (body (appendByte v s.dec))) := by
  simp [decoderRow, takesByte, bufferFull, hs, ht, hm]

/-- DECODER over a sequence, its last byte apart. -/
theorem decodeBytes_append (c : Config) (bs cs : List Byte) (d : Decoder) :
    decodeBytes c (bs ++ cs) d = decodeBytes c cs (decodeBytes c bs d) := by
  induction bs generalizing d with
  | nil => rfl
  | cons b bs ih => exact ih _

end Sys2Proof.Machine
end

