-- ==== Sys2Proof/Laws/Encoding.lean ====
section
/-! SUPPORT. The three fields of an operation word. -/

namespace Sys2Proof

/-- One bit of a packed word (log 1). -/
theorem getLsbD_packWord (o : BitVec 64) (k : BitVec 8) (st : BitVec 16) (i : Nat) :
    (packWord o k st).getLsbD i =
      if i < 16 then st.getLsbD i else if i < 24 then k.getLsbD (i - 16) else o.getLsbD (i - 24) := by
  have h : (packWord o k st).getLsbD i = ((o ++ k ++ st : BitVec (64 + 8 + 16))).getLsbD i := rfl
  rw [h, BitVec.getLsbD_append, BitVec.getLsbD_append]
  by_cases h1 : i < 16
  · simp [h1]
  · by_cases h2 : i < 24
    · simp [h1, h2, show i - 16 < 8 by omega]
    · simp [h1, h2, show ¬ i - 16 < 8 by omega, show i - 16 - 8 = i - 24 by omega]

@[simp] theorem wordStream_packWord (o : BitVec 64) (k : BitVec 8) (st : BitVec 16) :
    wordStream (packWord o k st) = st :=
  BitVec.eq_of_getLsbD_eq fun i hi => by simp [wordStream, getLsbD_packWord, hi]

@[simp] theorem wordSelector_packWord (o : BitVec 64) (k : BitVec 8) (st : BitVec 16) :
    wordSelector (packWord o k st) = k :=
  BitVec.eq_of_getLsbD_eq fun i hi => by simp [wordSelector, getLsbD_packWord, hi, show 16 + i < 24 by omega]

@[simp] theorem wordOperand_packWord (o : BitVec 64) (k : BitVec 8) (st : BitVec 16) :
    wordOperand (packWord o k st) = o :=
  BitVec.eq_of_getLsbD_eq fun i hi => by
    simp [wordOperand, getLsbD_packWord, hi, show ¬ 24 + i < 16 by omega, show ¬ 24 + i < 24 by omega]

/-- A word is its three fields. -/
theorem packWord_fields (w : OpWord) : packWord (wordOperand w) (wordSelector w) (wordStream w) = w :=
  BitVec.eq_of_getLsbD_eq fun i hi => by
    rw [getLsbD_packWord]
    by_cases h1 : i < 16
    · simp [h1, wordStream]
    · by_cases h2 : i < 24
      · simp [h1, h2, wordSelector, show i - 16 < 8 by omega, show 16 + (i - 16) = i by omega]
      · simp [h1, h2, wordOperand, show i - 24 < 64 by omega, show 24 + (i - 24) = i by omega]

/-! ## A field of a concatenation -/

/-- A field that lies in the lower part. -/
theorem extractLsb'_append_low {n m : Nat} (a : BitVec n) (b : BitVec m) (i w : Nat) (h : i + w ≤ m) :
    (a ++ b).extractLsb' i w = b.extractLsb' i w :=
  BitVec.eq_of_getLsbD_eq fun j hj => by simp [BitVec.getLsbD_append, hj, show i + j < m by omega]

/-- A field that lies in the upper part. -/
theorem extractLsb'_append_high {n m : Nat} (a : BitVec n) (b : BitVec m) (i w : Nat) (h : m ≤ i) :
    (a ++ b).extractLsb' i w = a.extractLsb' (i - m) w :=
  BitVec.eq_of_getLsbD_eq fun j hj => by
    simp [BitVec.getLsbD_append, hj, show ¬ i + j < m by omega, show i + j - m = i - m + j by omega]

end Sys2Proof
end

