-- ==== Sys2Proof/Laws/Exec.lean ====
section
/-! SUPPORT. exec always answers a next state, and every case of a step. -/

namespace Sys2Proof.Machine

/-- An operation answers a next state, performed or not. -/
theorem performIf_next (c : Bool) (u s : State) : ∃ t, performIf c u s = .next t := ⟨_, rfl⟩

/-- Every operation answers a next state on every state: the block has no fault (60_exceptions.md R240, R252). -/
theorem exec_next (i : Instr) (s : State) : ∃ t, exec i s = .next t := by
  cases i <;> exact ⟨_, rfl⟩

/-- Every case of a step that answers a next state: the operation of the next pending word, the core's POP, or
waiting. -/
theorem step_cases {s t : State} (h : step s = .next t) :
    s.cfg.valid = true ∧
    ((∃ w rest i, s.pending = w :: rest ∧ decode w = .ok i ∧ exec i (s.setPending rest) = .next t) ∨
     (s.pending = [] ∧ popEnabled s = true ∧ exec .pop s = .next t) ∨
     (s.pending = [] ∧ popEnabled s = false ∧ t = quiet s)) := by
  unfold step at h
  split at h
  · rename_i hv
    refine ⟨hv, ?_⟩
    unfold nextOp at h
    cases hp : s.pending with
    | nil =>
      simp only [hp] at h
      by_cases he : popEnabled s = true
      · rw [if_pos he] at h
        exact .inr (.inl ⟨rfl, he, h⟩)
      · rw [if_neg he] at h
        exact .inr (.inr ⟨rfl, by simpa using he, by cases h; rfl⟩)
    | cons w rest =>
      simp only [hp] at h
      cases hd : decode w with
      | ok i =>
        simp only [hd] at h
        exact .inl ⟨w, rest, i, rfl, hd, h⟩
      | error e =>
        simp only [hd] at h
        cases h
  · cases h

end Sys2Proof.Machine
end

