-- ==== Sys2Proof/Laws/Flags.lean ====
section
/-! SUPPORT. The flags and predicates as propositions. -/

namespace Sys2Proof.Machine

theorem sReady_iff (s : State) : sReady s = true ↔ s.inp.fifo.length < s.cfg.FIFO_DEPTH := by
  simp only [sReady, decide_eq_true_eq]; rfl

theorem latchDue_iff (c : Config) (p : Pll) : latchDue c p = true ↔ (c.PLLISPB2 : Int) ≤ p.icont := by
  simp only [latchDue, decide_eq_true_eq]

theorem startTransition_iff (p : Pll) : startTransition p = true ↔ Machine.trans p = true ∧ p.x0 < 0 := by
  simp only [startTransition, Bool.and_eq_true, decide_eq_true_eq]

theorem bufferFull_iff (c : Config) (d : Decoder) : bufferFull c d = true ↔ d.msglen.toNat = c.MSG_MAX := by
  simp only [bufferFull, decide_eq_true_eq]

theorem checksumValid_iff (k v : Byte) : checksumValid k v = true ↔ v.toNat = (256 - k.toNat) % 256 := by
  simp only [checksumValid, decide_eq_true_eq]

/-- A judged or terminal state is none of the six live ones (10_state.md R33). -/
theorem terminal_eq_false_iff (d : DState) : terminal d = false ↔
    d = .mt ∨ d = .ml ∨ d = .dt ∨ d = .dl ∨ d = .data ∨ d = .ck := by
  cases d <;> simp [terminal]

end Sys2Proof.Machine
end

