-- ==== Sys2Proof/Laws/PerInstr.lean ====
section
/-! SUPPORT. Every operation's word, operation by operation: its row number, its stream bits and its operand bits
stand in their fields. -/

namespace Sys2Proof.Laws.Selector

/-- The word of an operation holds its row of spec/opcode_table.json (1 to 39), its stream bits and its operand. -/
def Statement (i : Instr) : Prop :=
  wordSelector (encode i) = selectorOf i ∧ 1 ≤ (selectorOf i).toNat ∧ (selectorOf i).toNat ≤ 39 ∧
  wordStream (encode i) = streamOf i ∧ wordOperand (encode i) = operandOf i

/-- The fields of any word that is packed from a row number of the table. -/
theorem of_row (i : Instr) (h : 1 ≤ (selectorOf i).toNat ∧ (selectorOf i).toNat ≤ 39) : Statement i :=
  ⟨wordSelector_packWord .., h.1, h.2, wordStream_packWord .., wordOperand_packWord ..⟩

theorem frame (v : Byte) : Statement (.frame v) := of_row _ ⟨Nat.le_of_ble_eq_true rfl, Nat.le_of_ble_eq_true rfl⟩
theorem start : Statement .start := of_row _ ⟨Nat.le_of_ble_eq_true rfl, Nat.le_of_ble_eq_true rfl⟩
theorem push (x : Sample) : Statement (.push x) := of_row _ ⟨Nat.le_of_ble_eq_true rfl, Nat.le_of_ble_eq_true rfl⟩
theorem rdst : Statement .rdst := of_row _ ⟨Nat.le_of_ble_eq_true rfl, Nat.le_of_ble_eq_true rfl⟩
theorem rdmb (a : MbAddr) : Statement (.rdmb a) := of_row _ ⟨Nat.le_of_ble_eq_true rfl, Nat.le_of_ble_eq_true rfl⟩
theorem pop : Statement .pop := of_row _ ⟨Nat.le_of_ble_eq_true rfl, Nat.le_of_ble_eq_true rfl⟩
theorem discStep (x : Sample) : Statement (.discStep x) := of_row _ ⟨Nat.le_of_ble_eq_true rfl, Nat.le_of_ble_eq_true rfl⟩
theorem mfMark : Statement .mfMark := of_row _ ⟨Nat.le_of_ble_eq_true rfl, Nat.le_of_ble_eq_true rfl⟩
theorem mfSpace : Statement .mfSpace := of_row _ ⟨Nat.le_of_ble_eq_true rfl, Nat.le_of_ble_eq_true rfl⟩
theorem diff : Statement .diff := of_row _ ⟨Nat.le_of_ble_eq_true rfl, Nat.le_of_ble_eq_true rfl⟩
theorem postf : Statement .postf := of_row _ ⟨Nat.le_of_ble_eq_true rfl, Nat.le_of_ble_eq_true rfl⟩
theorem histShift (y : YWord) : Statement (.histShift y) := of_row _ ⟨Nat.le_of_ble_eq_true rfl, Nat.le_of_ble_eq_true rfl⟩
theorem pllHold : Statement .pllHold := of_row _ ⟨Nat.le_of_ble_eq_true rfl, Nat.le_of_ble_eq_true rfl⟩
theorem pllSnap : Statement .pllSnap := of_row _ ⟨Nat.le_of_ble_eq_true rfl, Nat.le_of_ble_eq_true rfl⟩
theorem pllNudge : Statement .pllNudge := of_row _ ⟨Nat.le_of_ble_eq_true rfl, Nat.le_of_ble_eq_true rfl⟩
theorem pllAdv : Statement .pllAdv := of_row _ ⟨Nat.le_of_ble_eq_true rfl, Nat.le_of_ble_eq_true rfl⟩
theorem pllLatch : Statement .pllLatch := of_row _ ⟨Nat.le_of_ble_eq_true rfl, Nat.le_of_ble_eq_true rfl⟩
theorem pllRound : Statement .pllRound := of_row _ ⟨Nat.le_of_ble_eq_true rfl, Nat.le_of_ble_eq_true rfl⟩
theorem frStartOk : Statement .frStartOk := of_row _ ⟨Nat.le_of_ble_eq_true rfl, Nat.le_of_ble_eq_true rfl⟩
theorem frStartFalse : Statement .frStartFalse := of_row _ ⟨Nat.le_of_ble_eq_true rfl, Nat.le_of_ble_eq_true rfl⟩
theorem frData (b : Bool) : Statement (.frData b) := of_row _ ⟨Nat.le_of_ble_eq_true rfl, Nat.le_of_ble_eq_true rfl⟩
theorem frStopOk : Statement .frStopOk := of_row _ ⟨Nat.le_of_ble_eq_true rfl, Nat.le_of_ble_eq_true rfl⟩
theorem frStopBad : Statement .frStopBad := of_row _ ⟨Nat.le_of_ble_eq_true rfl, Nat.le_of_ble_eq_true rfl⟩
theorem ovf (v : Byte) : Statement (.ovf v) := of_row _ ⟨Nat.le_of_ble_eq_true rfl, Nat.le_of_ble_eq_true rfl⟩
theorem append (v : Byte) : Statement (.append v) := of_row _ ⟨Nat.le_of_ble_eq_true rfl, Nat.le_of_ble_eq_true rfl⟩
theorem mtMdmf : Statement .mtMdmf := of_row _ ⟨Nat.le_of_ble_eq_true rfl, Nat.le_of_ble_eq_true rfl⟩
theorem mtSdmf : Statement .mtSdmf := of_row _ ⟨Nat.le_of_ble_eq_true rfl, Nat.le_of_ble_eq_true rfl⟩
theorem mtOther (v : Byte) : Statement (.mtOther v) := of_row _ ⟨Nat.le_of_ble_eq_true rfl, Nat.le_of_ble_eq_true rfl⟩
theorem mlAny (v : Byte) : Statement (.mlAny v) := of_row _ ⟨Nat.le_of_ble_eq_true rfl, Nat.le_of_ble_eq_true rfl⟩
theorem dtDate : Statement .dtDate := of_row _ ⟨Nat.le_of_ble_eq_true rfl, Nat.le_of_ble_eq_true rfl⟩
theorem dtNumber : Statement .dtNumber := of_row _ ⟨Nat.le_of_ble_eq_true rfl, Nat.le_of_ble_eq_true rfl⟩
theorem dtNonumber : Statement .dtNonumber := of_row _ ⟨Nat.le_of_ble_eq_true rfl, Nat.le_of_ble_eq_true rfl⟩
theorem dtName : Statement .dtName := of_row _ ⟨Nat.le_of_ble_eq_true rfl, Nat.le_of_ble_eq_true rfl⟩
theorem dtNoname : Statement .dtNoname := of_row _ ⟨Nat.le_of_ble_eq_true rfl, Nat.le_of_ble_eq_true rfl⟩
theorem dtOther (v : Byte) : Statement (.dtOther v) := of_row _ ⟨Nat.le_of_ble_eq_true rfl, Nat.le_of_ble_eq_true rfl⟩
theorem dlAny (v : Byte) : Statement (.dlAny v) := of_row _ ⟨Nat.le_of_ble_eq_true rfl, Nat.le_of_ble_eq_true rfl⟩
theorem dataAny (v : Byte) : Statement (.dataAny v) := of_row _ ⟨Nat.le_of_ble_eq_true rfl, Nat.le_of_ble_eq_true rfl⟩
theorem ckAny (v : Byte) : Statement (.ckAny v) := of_row _ ⟨Nat.le_of_ble_eq_true rfl, Nat.le_of_ble_eq_true rfl⟩
theorem extract : Statement .extract := of_row _ ⟨Nat.le_of_ble_eq_true rfl, Nat.le_of_ble_eq_true rfl⟩

end Sys2Proof.Laws.Selector
end

