-- ==== Sys2Proof/Laws/Pll.lean ====
section
/-! SUPPORT. The PLL's shared operations. -/

namespace Sys2Proof.Machine

/-- PLL.ROUND where the correction falls due (42 R158). -/
theorem roundPll_of_le {c : Config} {p : Pll} (h : c.PLL_ROUND_PERIOD ≤ p.rcnt + c.PLL_ROUND_OFF) :
    roundPll c p = { p with rcnt := p.rcnt + c.PLL_ROUND_OFF - c.PLL_ROUND_PERIOD, icont := p.icont - 1 } :=
  if_pos h

/-- PLL.ROUND where it does not (42 R158). -/
theorem roundPll_of_lt {c : Config} {p : Pll} (h : p.rcnt + c.PLL_ROUND_OFF < c.PLL_ROUND_PERIOD) :
    roundPll c p = { p with rcnt := p.rcnt + c.PLL_ROUND_OFF } := if_neg (Nat.not_le.2 h)

/-- PLL.ROUND leaves the history alone, and takes at most one unit of phase (42 R158). -/
theorem roundPll_frame (c : Config) (p : Pll) :
    (roundPll c p).x0 = p.x0 ∧ (roundPll c p).x1 = p.x1 ∧ (roundPll c p).x2 = p.x2 ∧
    p.icont - 1 ≤ (roundPll c p).icont ∧ (roundPll c p).icont ≤ p.icont := by
  rcases Nat.lt_or_ge (p.rcnt + c.PLL_ROUND_OFF) c.PLL_ROUND_PERIOD with h | h
  · rw [roundPll_of_lt h]; refine ⟨rfl, rfl, rfl, ?_, ?_⟩ <;> simp
  · rw [roundPll_of_le h]; refine ⟨rfl, rfl, rfl, ?_, ?_⟩ <;> simp

/-- Where `clamp` lies (00_scope.md R13). -/
theorem clamp_eq (v b : Int) (h : 0 ≤ b) : clamp v (-b) b = max (-b) (min v b) := by
  unfold clamp
  split
  · omega
  · split <;> omega

end Sys2Proof.Machine
end

