-- ==== Sys2Proof/Laws/Pop.lean ====
section
/-! SUPPORT. What the parts of POP leave alone (10_state.md: the operations that write each element). -/

namespace Sys2Proof.Machine

/-- DISC.STEP writes the discriminator and its results only (10_state.md R23). -/
theorem runDiscStep_frame (x : Sample) (s : State) :
    (runDiscStep x s).cfg = s.cfg ∧
    (runDiscStep x s).inp = s.inp ∧
    (runDiscStep x s).pll = s.pll ∧
    (runDiscStep x s).frm = s.frm ∧
    (runDiscStep x s).dec = s.dec ∧
    (runDiscStep x s).trace = s.trace ∧
    (runDiscStep x s).host = s.host ∧
    (runDiscStep x s).pending = s.pending := by
  unfold runDiscStep
  split <;> simp [refStep, identStep, otherStep, runPostf, runDiff, runMfMark, runMfSpace, shiftSample]

/-- Every case of DISC.STEP: the discriminator's own state, and its results (41 R130, R140, R142). -/
theorem runDiscStep_cases (x : Sample) (s : State) :
    (∃ r, s.cfg.DISC = .ref r ∧ runDiscStep x s = refStep x s) ∨
    (s.cfg.DISC = .ident ∧ runDiscStep x s = identStep x s) ∨
    (∃ n width, s.cfg.DISC = .other n width ∧ runDiscStep x s = otherStep n width x s) := by
  cases h : s.cfg.DISC with
  | ref r => exact .inl ⟨r, rfl, by simp only [runDiscStep, h]⟩
  | ident => exact .inr (.inl ⟨rfl, by simp only [runDiscStep, h]⟩)
  | other n width => exact .inr (.inr ⟨n, width, rfl, by simp only [runDiscStep, h]⟩)

/-- FRAMER writes the framer, the decoder and the byte output only (43, head). -/
theorem runFramer_frame (b : Bool) (s : State) :
    (runFramer b s).cfg = s.cfg ∧
    (runFramer b s).inp = s.inp ∧
    (runFramer b s).disc = s.disc ∧
    (runFramer b s).pll = s.pll ∧
    (runFramer b s).wires = s.wires ∧
    (runFramer b s).host = s.host ∧
    (runFramer b s).pending = s.pending ∧
    (runFramer b s).trace.bit = s.trace.bit := by
  unfold runFramer
  cases s.frm.fs <;> simp only
  · simp
  · cases b <;> simp [runFrStartOk, runFrStartFalse]
  · simp only [runFrData]; split <;> simp
  · cases b <;> simp [runFrStopBad, runFrStopOk]
    split <;> simp [runDecoder, emitByte]

/-- The bits of a line frame reach the framer and the decoder only (log 6). -/
theorem lineBit_frame (p b : Bool) (s : State) :
    (lineBit p b s).cfg = s.cfg ∧
    (lineBit p b s).inp = s.inp ∧
    (lineBit p b s).disc = s.disc ∧
    (lineBit p b s).pll = s.pll ∧
    (lineBit p b s).wires = s.wires ∧
    (lineBit p b s).host = s.host ∧
    (lineBit p b s).pending = s.pending := by
  unfold lineBit
  repeat' split
  all_goals simp [runFramer_frame]

/-- The whole line frame (log 6). -/
theorem lineBits_frame (p : Bool) (bs : List Bool) (s : State) :
    (lineBits p bs s).cfg = s.cfg ∧
    (lineBits p bs s).inp = s.inp ∧
    (lineBits p bs s).disc = s.disc ∧
    (lineBits p bs s).pll = s.pll ∧
    (lineBits p bs s).wires = s.wires ∧
    (lineBits p bs s).host = s.host ∧
    (lineBits p bs s).pending = s.pending := by
  induction bs generalizing p s with
  | nil => simp [lineBits]
  | cons b bs ih => simp [lineBits, ih, lineBit_frame]

/-- The clock part of POP writes the PLL, the framer, the decoder and the outputs only (40 R113). -/
theorem runClock_frame (s : State) :
    (runClock s).cfg = s.cfg ∧
    (runClock s).inp = s.inp ∧
    (runClock s).disc = s.disc ∧
    (runClock s).wires = s.wires ∧
    (runClock s).host = s.host ∧
    (runClock s).pending = s.pending := by
  unfold runClock
  split <;> simp [runFramer_frame, runPllLatch, runPllAdv, runPllRound]

/-- The part of POP after HIST.SHIFT, likewise (40 R113). -/
theorem runTiming_frame (s : State) :
    (runTiming s).cfg = s.cfg ∧
    (runTiming s).inp = s.inp ∧
    (runTiming s).disc = s.disc ∧
    (runTiming s).wires = s.wires ∧
    (runTiming s).host = s.host ∧
    (runTiming s).pending = s.pending := by
  unfold runTiming
  repeat' split
  all_goals simp [runClock_frame, runPllSnap, runPllHold, runPllNudge]

/-- POP takes one sample off the FIFO and leaves the parameters, the host's view and the pending operations
(40 R113). -/
theorem runPop_frame (s : State) :
    (runPop s).cfg = s.cfg ∧ (runPop s).host = s.host ∧ (runPop s).pending = s.pending ∧
    (runPop s).inp.fifo = s.inp.fifo.drop 1 := by
  unfold runPop
  split
  · simp_all
  · simp_all [closePop, runTiming_frame, runSample, runHistShift, runDiscStep_frame, takeSample]

end Sys2Proof.Machine
end

