-- ==== Sys2Proof/Laws/Safety.lean ====
section
/-! SUPPORT. Runs of operations, signed values of a width, and the sum of the buffer's bytes. -/

namespace Sys2Proof.Machine

/-- A run whose first operation answers a next state goes on from there. -/
theorem performAll_cons {i : Instr} {is : List Instr} {s t : State} (h : exec i s = .next t) :
    performAll (i :: is) s = performAll is t := by
  simp only [performAll, h]

/-- Every sample of a run finds room when the first does and the rest do from there. -/
theorem everySampleTaken_cons {i : Instr} {is : List Instr} {s t : State} (h : exec i s = .next t)
    (hi : ∀ x, i = .push x → sReady s = true) (hr : everySampleTaken is t) : everySampleTaken (i :: is) s := by
  simp only [everySampleTaken, h]
  exact ⟨hi, hr⟩

/-- The events of a run, its first operation apart. -/
theorem emittedBy_cons {i : Instr} {is : List Instr} {s t : State} (h : exec i s = .next t) :
    emittedBy (i :: is) s = eventsShown t.trace ++ emittedBy is t := by
  simp only [emittedBy, h]

/-- The latches of a run, its first operation apart. -/
theorem latchesIn_cons {i : Instr} {is : List Instr} {s t : State} (h : exec i s = .next t) :
    latchesIn (i :: is) s = (if latches i s then 1 else 0) + latchesIn is t := by
  simp only [latchesIn, h]

/-- The extra units of a run, its first operation apart. -/
theorem extraUnitsIn_cons {i : Instr} {is : List Instr} {s t : State} (h : exec i s = .next t) :
    extraUnitsIn (i :: is) s =
      (if latches i s then s.pll.icont - s.cfg.PLLISPB - t.pll.icont else 0) + extraUnitsIn is t := by
  simp only [extraUnitsIn, h]

/-- Nothing is shown on silent trace outputs. -/
@[simp] theorem eventsShown_noTrace : eventsShown noTrace = [] := rfl

/-- An operand read as `n` bits is a signed value of `n` bits (00_scope.md R12, R13). -/
theorem sext_fitsWidth {n : Nat} (v : Int) (h : 1 ≤ n) : fitsWidth n (sext n v) := by
  obtain ⟨k, rfl⟩ : ∃ k, n = k + 1 := ⟨n - 1, by omega⟩
  have hp : 0 < 2 ^ (k + 1) := Nat.two_pow_pos _
  have hk : (2 ^ (k + 1) : Nat) = 2 * 2 ^ k := by rw [Nat.pow_succ, Nat.mul_comm]
  have lo := Int.le_bmod (x := v) hp
  have hi := Int.bmod_lt (x := v) hp
  have e : ((2 ^ k : Nat) : Int) = 2 ^ k := by push_cast; rfl
  rw [hk] at lo hi
  simp only [fitsWidth, sext, Nat.add_sub_cancel, hk, ← e]
  omega

/-- A signed value of `n` bits is read as it is (00_scope.md R12, R13). -/
theorem sext_of_fitsWidth {n : Nat} {v : Int} (h : 1 ≤ n) (hv : fitsWidth n v) : sext n v = v := by
  obtain ⟨k, rfl⟩ : ∃ k, n = k + 1 := ⟨n - 1, by omega⟩
  have hk : (2 ^ (k + 1) : Nat) = 2 * 2 ^ k := by rw [Nat.pow_succ, Nat.mul_comm]
  have e : ((2 ^ k : Nat) : Int) = 2 ^ k := by push_cast; rfl
  simp only [fitsWidth, Nat.add_sub_cancel, ← e] at hv
  rw [sext, hk]
  exact Int.bmod_eq_of_le (by omega) (by omega)

/-- A write at or above `n` leaves the sum of the bytes below `n` alone. -/
theorem byteSum_write {m : Memory} {a n : Nat} (v : Byte) (h : n ≤ a) :
    byteSum (Memory.write m a v) n = byteSum m n := by
  induction n with
  | zero => rfl
  | succ n ih =>
    rw [byteSum, byteSum, ih (by omega), Memory.read_write_ne v (by omega)]

/-- An append adds its byte to the sum. -/
theorem byteSum_append {m : Memory} (n : Nat) (v : Byte) (h : Memory.wf m) :
    byteSum (Memory.write m n v) (n + 1) = byteSum m n + v := by
  rw [byteSum, byteSum_write v (Nat.le_refl n), Memory.read_write_self n v h]

end Sys2Proof.Machine
end

