-- ==== Sys2Proof/Tests/Slice0.lean ====
section
/-! SUPPORT. Tests: ill-formed operations are refused, every constructor's word decodes, one step of every operation
on a small state with the spec's own numbers, and a witness for every statement with hypotheses. -/

namespace Sys2Proof.Tests

open Sys2Proof Sys2Proof.Machine

/-! ## Small states -/

/-- What an operation leaves. -/
def after (i : Instr) (s : State) : State :=
  match exec i s with
  | .next t => t
  | .fault _ => s
  | .refused _ => s

def reset : State := State.reset
/-- The reset state with this PLL. -/
def withPll (p : Pll) : State := { State.reset with pll := p }
/-- The reset state with this framer. -/
def withFrm (f : Framer) : State := { State.reset with frm := f }
/-- The reset state with this decoder. -/
def withDec (d : Decoder) : State := { State.reset with dec := d }
/-- The reset state with the decoder in this state, nothing received. -/
def inDs (d : DState) : State := withDec { resetDecoder with ds := d }
/-- The reset state with the framer in this state. -/
def inFs (f : FState) : State := withFrm { resetFramer with fs := f }
/-- The reset state of a block with this discriminator, a gate of one sample and a FIFO of two. -/
def withDisc (d : Disc) : State :=
  State.resetOf { Config.reference with DISC := d, GATE_WINDOW := 1, FIFO_DEPTH := 2 }
/-- The identity discriminator, one sample waiting. -/
def oneSample (x : Sample) : State := { withDisc .ident with inp := { fifo := [x], inv := false } }
/-- A PLL inside a frame at a transition from mark to space, with this phase. -/
def atTransition (icont : Int) : State :=
  { withPll { x0 := -1000, x1 := 1000, x2 := 1000, icont := icont, rcnt := 0 } with
    frm := { resetFramer with fs := .data } }
/-- The bytes of the source's example message (95_test_vectors.md V1). -/
def v1 : List Byte := [0x04, 0x08, 0x02, 0x07, 0x35, 0x35, 0x35, 0x31, 0x32, 0x33, 0x34, 0x82]
/-- The block after that message. -/
def afterV1 : State := withDec (decodeBytes Config.reference v1 resetDecoder)
/-- The first byte of an SDMF message has been decoded, a sample waits and a read is to come. -/
def oneByte : State :=
  { withDec { resetDecoder with ds := .ml, fmt := .sdmf, msglen := 1, msgbuf := [(0, 0x04)], cks := 0x04 } with
    inp := { fifo := [100], inv := false }
    pending := [0x040000] }
/-- The decoder of a message buffer that is full, in this state. -/
def fullIn (d : DState) : Decoder := { resetDecoder with ds := d, msglen := 258 }

/-! ## WellFormed refuses an ill-formed operation (30_encoding.md R87, R88, R102) -/

theorem test_wf_mtOther_mdmf : Instr.wellFormed (.mtOther 0x80) = false := by decide
theorem test_wf_mtOther_sdmf : Instr.wellFormed (.mtOther 0x04) = false := by decide
theorem test_wf_dtOther_known : ([0x01, 0x02, 0x04, 0x07, 0x08] : List Byte).all
    (fun v => !Instr.wellFormed (.dtOther v)) = true := by decide
theorem test_wf_others : Instr.wellFormed (.mtOther 0x55) = true ∧ Instr.wellFormed (.dtOther 0x80) = true := by
  decide

/-! ## Decoding: words written out, operand | row | stream (log 1; stream bits from 30_encoding.md R80, R87, R88) -/

theorem test_decode_host : decode 0x0102AA = .ok (.frame 0x55) ∧ decode 0x020000 = .ok .start ∧
    decode 0x03FFFB = .ok (.push 0xFFFB) ∧ decode 0x040000 = .ok .rdst ∧ decode 0x050102 = .ok (.rdmb 258) ∧
    decode 0x060000 = .ok .pop ∧ decode 0x270000 = .ok .extract := by decide
theorem test_decode_discriminator : decode 0x071F40 = .ok (.discStep 8000) ∧ decode 0x080000 = .ok .mfMark ∧
    decode 0x090000 = .ok .mfSpace ∧ decode 0x0A0000 = .ok .diff ∧ decode 0x0B0000 = .ok .postf := by decide
theorem test_decode_pll : decode 0xFFFFFFFFFFFFFFFC0C0000 = .ok (.histShift (-4)) ∧
    decode 0x0D0000 = .ok .pllHold ∧ decode 0x0E0000 = .ok .pllSnap ∧ decode 0x0F0000 = .ok .pllNudge ∧
    decode 0x100000 = .ok .pllAdv ∧ decode 0x110000 = .ok .pllLatch ∧ decode 0x120000 = .ok .pllRound := by decide
theorem test_decode_framer : decode 0x130000 = .ok .frStartOk ∧ decode 0x140001 = .ok .frStartFalse ∧
    decode 0x150000 = .ok (.frData false) ∧ decode 0x150001 = .ok (.frData true) ∧ decode 0x160001 = .ok .frStopOk ∧
    decode 0x170000 = .ok .frStopBad := by decide
theorem test_decode_decoder_types : decode 0x1A0080 = .ok .mtMdmf ∧ decode 0x1B0004 = .ok .mtSdmf ∧
    decode 0x1C0055 = .ok (.mtOther 0x55) ∧ decode 0x1E0001 = .ok .dtDate ∧ decode 0x1F0002 = .ok .dtNumber ∧
    decode 0x200004 = .ok .dtNonumber ∧ decode 0x210007 = .ok .dtName ∧ decode 0x220008 = .ok .dtNoname ∧
    decode 0x230003 = .ok (.dtOther 0x03) := by decide
theorem test_decode_decoder_bytes : decode 0x1800FF = .ok (.ovf 0xFF) ∧ decode 0x190002 = .ok (.append 0x02) ∧
    decode 0x1D0008 = .ok (.mlAny 0x08) ∧ decode 0x240007 = .ok (.dlAny 0x07) ∧
    decode 0x250035 = .ok (.dataAny 0x35) ∧ decode 0x260082 = .ok (.ckAny 0x82) := by decide
theorem test_decode_table_words : decodeTableWord 8 0x80 = some .mtMdmf ∧ decodeTableWord 8 0x04 = some .mtSdmf ∧
    decodeTableWord 8 0x07 = some .dtName ∧ decodeTableWord 8 0x00 = some .frStartOk ∧
    decodeTableWord 16 0x02AA = some (.frame 0x55) := by decide
theorem test_decode_rejects : decode 0x280000 = .error .unknownSelector ∧ decode 0x020001 = .error .streamBits ∧
    decode 0x01000000020000 = .error .operandBits ∧ decode 0x1C0080 = .error .moreSpecificRow ∧
    decode 0x000003 = .error .noRowWithoutState := by decide
theorem test_fetch_word : step (State.reset.withFetchWord 8 0x80) =
    exec .mtMdmf ((State.reset.withFetchWord 8 0x80).setPending []) := rfl

/-! ## The selection of the block itself (40 R113, 43 R170, 44 R190) -/

theorem test_select_transition : selectTransition .idle true true = some .pllSnap ∧
    selectTransition .idle true false = some .pllHold ∧ selectTransition .idle false true = some .pllHold ∧
    selectTransition .start true false = some .pllNudge ∧ selectTransition .stop false true = none := by decide
theorem test_select_decoder : selectDecoder .mt true 0x80 = some (.ovf 0x80) ∧
    selectDecoder .complete false 0x80 = none ∧ selectDecoder .dt false 0x80 = some (.dtOther 0x80) := by decide

/-! ## The configuration (00_scope.md R8, R11, R10) -/

theorem test_reference_constants : Config.reference.PLLISPB = 213 ∧ Config.reference.PLLIDS = 6 ∧
    Config.reference.PLLISPB2 = 106 ∧ Config.reference.rem32 = 400 ∧ Config.reference.PLL_ROUND_OFF = 1 ∧
    Config.reference.PLL_ROUND_PERIOD = 3 ∧ Config.reference.WINDOW = 80 ∧ Config.reference.W = 7 ∧
    Config.reference.L = 3 ∧ Config.reference.YW = 34 ∧ Config.reference.ICW = 9 ∧ Config.reference.OCCW = 7 ∧
    Config.reference.valid = true := by decide
theorem test_refused_configuration : Config.valid { Config.reference with FS := 4799 } = false ∧
    Config.valid { Config.reference with GATE_WINDOW := 81 } = false ∧
    Config.valid { Config.reference with MSG_MAX := 2 } = false := by decide
/-- 41 R142: `YW = 16` for `DISC_ID`; R130: an unknown discriminator brings its own. -/
theorem test_output_width : (withDisc .ident).cfg.YW = 16 ∧ (withDisc (.other 3 20)).cfg.YW = 20 := by decide

/-! ## One step of every operation: the rules' own examples -/

/-- 40 R111: with `occ = 79`, PUSH(-5) gives `occ = 80`, `s_ready = 0`; one more is not taken. -/
def nearlyFull : State := { State.reset with inp := { fifo := List.replicate 79 0, inv := false } }
theorem test_push : occ (after (.push (-5)) nearlyFull) = 80 ∧ sReady (after (.push (-5)) nearlyFull) = false ∧
    (after (.push (-5)) nearlyFull).inp.fifo.getLast? = some (-5) := by decide
theorem test_push_full : (after (.push 1) (after (.push (-5)) nearlyFull)).inp = (after (.push (-5)) nearlyFull).inp ∧
    (after (.push 1) (after (.push (-5)) nearlyFull)).host.taken = false := by decide
/-- 40 R118: after Complete with `msglen = 12`, START gives `msglen = 0`, `DS_MT`, STATUS 0x02000000. -/
theorem test_start : afterV1.dec.msglen = 12 ∧ afterV1.dec.ds = .complete ∧ (after .start afterV1).dec.msglen = 0 ∧
    (after .start afterV1).dec.ds = .mt ∧ statusWord (after .start afterV1) = 0x02000000 := by decide
/-- 40 R119: after `[0x80, 0x05]`. -/
theorem test_rdst :
    let t := after .rdst (withDec (decodeBytes Config.reference [0x80, 0x05] resetDecoder))
    t.host.status.extractLsb' 4 4 = 2 ∧ t.host.status.extractLsb' 10 2 = 2 ∧ t.host.status.extractLsb' 16 9 = 2 ∧
    t.host.status2.extractLsb' 8 8 = 5 := by decide
/-- 40 R120: after V1, RDMB(4) = 0x35 and RDMB(12) = 0. -/
theorem test_rdmb : (after (.rdmb 4) afterV1).host.mbData = 0x35 ∧ (after (.rdmb 12) afterV1).host.mbData = 0 := by
  decide
/-- 42 R154 in a POP: a start transition leaves `icont = 32` and `FS_START`. -/
theorem test_pop_start_transition :
    let t := after .pop { oneSample (-1000) with pll := { resetPll with x0 := 1000, x1 := 1000, icont := 50 } }
    t.pll.icont = 32 ∧ t.frm.fs = .start ∧ t.inp = { fifo := [], inv := true } ∧ t.trace.bit = none := by decide
/-- 42 R160: the start bit's fourth sample latches, `icont` 128 less 213. -/
theorem test_pop_latch :
    let t := after .pop { oneSample (-1000) with
      pll := { x0 := -1000, x1 := -1000, x2 := -1000, icont := 96, rcnt := 0 }, frm := { resetFramer with fs := .start } }
    t.trace.bit = some false ∧ t.pll.icont = -85 ∧ t.frm.fs = .data ∧ t.inp.inv = false := by decide
/-- 41 R140: the first output of a session is 0, whatever the sample. -/
theorem test_disc_step : (after (.discStep 8000) reset).wires.y = 0 ∧
    (after (.discStep 8000) reset).disc.xs = [8000, 0, 0, 0, 0, 0, 0] := by decide
theorem test_disc_ident : (after (.discStep 0x8000) (withDisc .ident)).wires.y = -32768 := by decide
/-- 41 R136, R137: `xs = [1000, 0, 0, 0, 0, 0, 0]` gives `EM = ES = 15376`. -/
def oneTap : State := { State.reset with disc := { xs := [1000, 0, 0, 0, 0, 0, 0], dl := [0, 0, 0], ext := [] } }
theorem test_mf_mark : (after .mfMark oneTap).wires.em = 15376 := by decide
/-- Every tap in use: the sums written out from the ROM tables of 41 R135, with a negative one floored. -/
theorem test_mf_mark_taps :
    (after .mfMark { oneTap with disc := { oneTap.disc with xs := [1, 10, 100, 1000, -1000, 0, 100] } }).wires.em =
      (-44) ^ 2 + 120 ^ 2 := by decide
theorem test_mf_space : (after .mfSpace oneTap).wires.es = 15376 := by decide
/-- 41 R138. -/
theorem test_diff : (after .diff { State.reset with wires := { em := 15376, es := 15376, d := 1, y := 0 } }).wires.d = 0
    := by decide
theorem test_diff_sign : (after .diff { State.reset with wires := { em := 3, es := 10, d := 1, y := 0 } }).wires.d = -7
    := by decide
/-- 41 R139: `dl = [5, -2, 7]`, `d = -10` gives `[-10, 5, -2]` and `y = -7`. -/
theorem test_postf :
    let t := after .postf { State.reset with
      disc := { resetDisc Config.reference with dl := [5, -2, 7] }, wires := { resetWires with d := -10 } }
    t.disc.dl = [-10, 5, -2] ∧ t.wires.y = -7 := by decide
/-- 42 R151. -/
theorem test_hist_shift : (after (.histShift (-4)) (withPll { x0 := 5, x1 := 9, x2 := 9, icont := 0, rcnt := 0 })).pll
    = { x0 := -4, x1 := 5, x2 := 9, icont := 0, rcnt := 0 } := by decide
/-- 10_state.md R26: with `DISC_ID` the operand is a signed value of 16 bits, the word's low 16. -/
theorem test_hist_shift_width : (after (.histShift 0x1FFFE) (withDisc .ident)).pll.x0 = -2 ∧
    (after (.histShift 0x7FFF) (withDisc .ident)).pll.x0 = 32767 := by decide
/-- 42 R152, the six examples. -/
theorem test_trans : Machine.trans { resetPll with x0 := -4, x1 := 5, x2 := 9 } = true ∧
    Machine.trans { resetPll with x0 := -4, x1 := 0, x2 := 9 } = true ∧
    Machine.trans { resetPll with x0 := -4, x1 := 0, x2 := -9 } = false ∧
    Machine.trans { resetPll with x0 := 0, x1 := 5, x2 := 9 } = false ∧
    Machine.trans { resetPll with x0 := -4, x1 := 0, x2 := 0 } = false ∧
    Machine.trans { resetPll with x0 := 3, x1 := 5, x2 := -9 } = false := by decide
/-- 42 R153. -/
theorem test_hold : after .pllHold (withPll { x0 := 900, x1 := 1000, x2 := 1000, icont := 7, rcnt := 2 }) =
    withPll { x0 := 900, x1 := 1000, x2 := 1000, icont := 7, rcnt := 2 } := by decide
/-- 42 R154; a space-to-mark transition is none. -/
theorem test_snap : let t := after .pllSnap (withPll { x0 := -1000, x1 := 1000, x2 := 1000, icont := 7, rcnt := 2 })
    t.pll.icont = 0 ∧ t.pll.rcnt = 0 ∧ t.frm.fs = .start := by decide
theorem test_snap_up : (after .pllSnap (withPll { x0 := 1000, x1 := -1000, x2 := -1000, icont := 7, rcnt := 2 })).frm.fs
    = .idle := by decide
/-- 42 R155: 40 gives 34, -50 gives -44, 4 gives 0, -3 gives 0. -/
theorem test_nudge : (after .pllNudge (atTransition 40)).pll.icont = 34 ∧
    (after .pllNudge (atTransition (-50))).pll.icont = -44 := by decide
theorem test_nudge_small : (after .pllNudge (atTransition 4)).pll.icont = 0 ∧
    (after .pllNudge (atTransition (-3))).pll.icont = 0 := by decide
/-- 42 R156: 74 gives 106. -/
theorem test_adv : (after .pllAdv (atTransition 74)).pll.icont = 106 := by decide
/-- 42 R157: `icont = 106`, `x0 = -700`, `rcnt = 0` gives bit 0, -107 and 1. -/
theorem test_latch : let t := after .pllLatch (withPll { x0 := -700, x1 := 0, x2 := 0, icont := 106, rcnt := 0 })
    t.trace.bit = some false ∧ t.pll.icont = -107 ∧ t.pll.rcnt = 1 := by decide
theorem test_latch_below : (after .pllLatch (withPll { resetPll with icont := 105 })).pll.icont = 105 := by decide
/-- 42 R158: `rcnt = 2`, `icont = -100` gives 0 and -101. -/
theorem test_round : let t := after .pllRound (withPll { resetPll with icont := -100, rcnt := 2 })
    t.pll.rcnt = 0 ∧ t.pll.icont = -101 := by decide
/-- 43 R171. -/
theorem test_fr_start_ok : (after .frStartOk (withFrm { fs := .start, nb := 5, ns := 1, sr := 0x5A })).frm
    = { fs := .data, nb := 0, ns := 1, sr := 0x00 } := by decide
/-- 43 R172. -/
theorem test_fr_start_false : (after .frStartFalse (withFrm { fs := .start, nb := 5, ns := 1, sr := 0x5A })).frm
    = { fs := .idle, nb := 5, ns := 1, sr := 0x5A } := by decide
/-- 43 R173: the first and the eighth bit of 0x55. -/
theorem test_fr_data : (after (.frData true) (withFrm { fs := .data, nb := 0, ns := 1, sr := 0x00 })).frm
    = { fs := .data, nb := 1, ns := 1, sr := 0x80 } := by decide
theorem test_fr_data_last : (after (.frData false) (withFrm { fs := .data, nb := 7, ns := 1, sr := 0xAA })).frm
    = { fs := .stop, nb := 8, ns := 0, sr := 0x55 } := by decide
/-- 43 R175: byte 0x55 is emitted, `FS_IDLE`, `ns = 1`; in `DS_MT` it is UnknownFormat (44 R197). -/
theorem test_fr_stop_ok : let t := after .frStopOk (withFrm { fs := .stop, nb := 8, ns := 0, sr := 0x55 })
    t.trace.byte = some 0x55 ∧ t.frm.fs = .idle ∧ t.frm.ns = 1 ∧ t.dec.ds = .unknown := by decide
/-- 43 R176. -/
theorem test_fr_stop_bad : let t := after .frStopBad (withFrm { fs := .stop, nb := 8, ns := 0, sr := 0x55 })
    t.frm.fs = .idle ∧ t.trace.byte = none ∧ t.dec = resetDecoder := by decide
/-- 30_encoding.md R80: `FRAME(0x80)` reaches the decoder as the MDMF type byte, with one stop bit and with two; a bit
shown before is not held (10_state.md R42). -/
theorem test_frame : let t := after (.frame 0x80) { reset with trace := { bit := some true, byte := none } }
    t.trace = { bit := none, byte := some 0x80 } ∧ t.dec.fmt = .mdmf ∧ t.frm.fs = .idle := by decide
theorem test_frame_two_stops :
    let t := after (.frame 0x04) (State.resetOf { Config.reference with NSTOP := 2 })
    t.trace.byte = some 0x04 ∧ t.dec.fmt = .sdmf ∧ t.frm.ns = 2 := by decide
/-- 44 R192: `msglen = 2`, `cks = 0x0C`, `DS_DT`, `v = 0x02` gives `msgbuf[2] = 0x02`, 3 and 0x0E. -/
theorem test_append : let t := after (.append 0x02) (withDec { resetDecoder with ds := .dt, msglen := 2, cks := 0x0C })
    Memory.read t.dec.msgbuf 2 = 0x02 ∧ t.dec.msglen = 3 ∧ t.dec.cks = 0x0E := by decide
/-- 44 R193. -/
theorem test_ovf : (after (.ovf 0x33) (withDec (fullIn .data))).dec = fullIn .malformed := by decide
/-- 44 R195. -/
theorem test_mt_mdmf : (after .mtMdmf reset).dec =
    { resetDecoder with ds := .ml, fmt := .mdmf, msglen := 1, msgbuf := [(0, 0x80)], cks := 0x80 } := by decide
/-- 44 R196. -/
theorem test_mt_sdmf : (after .mtSdmf reset).dec =
    { resetDecoder with ds := .ml, fmt := .sdmf, msglen := 1, msgbuf := [(0, 0x04)], cks := 0x04 } := by decide
/-- 44 R197: first byte 0x55, OUTCOME 2. -/
theorem test_mt_other : (after (.mtOther 0x55) reset).dec =
    { resetDecoder with ds := .unknown, msglen := 1, msgbuf := [(0, 0x55)], cks := 0x55 } ∧
    (statusWord (after (.mtOther 0x55) reset)).extractLsb' 1 3 = 2 := by decide
/-- 44 R198. -/
theorem test_ml_any : let t := after (.mlAny 0x08) (inDs .ml)
    t.dec.mlen = 8 ∧ t.dec.ds = .dt := by decide
/-- 44 R199 to R204. -/
theorem test_dt_date : let t := after .dtDate (inDs .dt)
    t.dec.ds = .dl ∧ t.dec.nameseen = false ∧ t.dec.numseen = false ∧ t.dec.cks = 0x01 := by decide
theorem test_dt_number : let t := after .dtNumber (inDs .dt)
    t.dec.ds = .dl ∧ t.dec.nameseen = false ∧ t.dec.numseen = true ∧ t.dec.cks = 0x02 := by decide
theorem test_dt_nonumber : let t := after .dtNonumber (inDs .dt)
    t.dec.ds = .dl ∧ t.dec.nameseen = false ∧ t.dec.numseen = true ∧ t.dec.cks = 0x04 := by decide
theorem test_dt_name : let t := after .dtName (inDs .dt)
    t.dec.ds = .dl ∧ t.dec.nameseen = true ∧ t.dec.numseen = false ∧ t.dec.cks = 0x07 := by decide
theorem test_dt_noname : let t := after .dtNoname (inDs .dt)
    t.dec.ds = .dl ∧ t.dec.nameseen = true ∧ t.dec.numseen = false ∧ t.dec.cks = 0x08 := by decide
theorem test_dt_other : let t := after (.dtOther 0x03) (inDs .dt)
    t.dec.ds = .unknown ∧ t.dec.msglen = 1 ∧ t.dec.cks = 0x03 := by decide
/-- 44 R205: 7 opens the field; 0 with SDMF and a number ends it. -/
theorem test_dl_any : let t := after (.dlAny 0x07) (inDs .dl)
    t.dec.cnt = 7 ∧ t.dec.ds = .data := by decide
theorem test_dl_any_zero : let t := after (.dlAny 0) (withDec { resetDecoder with ds := .dl, fmt := .sdmf, numseen := true })
    t.dec.cnt = 0 ∧ t.dec.ds = .ck := by decide
/-- 44 R207. -/
theorem test_data_any : let t := after (.dataAny 0x35) (withDec { resetDecoder with ds := .data, cnt := 3 })
    t.dec.cnt = 2 ∧ t.dec.ds = .data ∧ t.dec.cks = 0x35 := by decide
theorem test_data_any_last :
    let t := after (.dataAny 0x35) (withDec { resetDecoder with ds := .data, cnt := 1, fmt := .sdmf, numseen := true })
    t.dec.cnt = 0 ∧ t.dec.ds = .ck := by decide
/-- 44 R209: `cks = 0x7C`: 0x84 is Complete, 0x85 ChecksumFailed; V1 sets `lenbad`. -/
theorem test_ck_any : (after (.ckAny 0x84) (withDec { resetDecoder with ds := .ck, cks := 0x7C })).dec.ds = .complete ∧
    (after (.ckAny 0x85) (withDec { resetDecoder with ds := .ck, cks := 0x7C })).dec.ds = .ckfail := by decide
theorem test_ck_any_lenbad : afterV1.dec.lenbad = true ∧ afterV1.dec.cks = 0x7E := by decide
/-- 45 R221 on V1; 95_test_vectors.md V40. -/
theorem test_extract : (after .extract afterV1).host.record = some (.record
    { date := [], time := [], name := [], number := [0x35, 0x35, 0x35, 0x31, 0x32, 0x33, 0x34] }) := by decide
theorem test_extract_date : extractBytes 255 ([0x04, 0x0F, 0x01, 0x08] ++
      ascii ['0', '1', '0', '5', '1', '4', '3', '2'] ++ [0x02, 0x03] ++ ascii ['1', '2', '3'] ++ [0xB9]) = .record
    { date := ascii ['J', 'a', 'n', 'u', 'a', 'r', 'y', ' ', '0', '5']
      time := ascii ['1', '4', ' ', 'h', 'r', ' ', ':', ' ', '3', '2', ' ', 'm', 'i', 'n']
      name := [], number := ascii ['1', '2', '3'] } := by decide

/-! ## Witnesses: a state and operands that meet each statement's hypotheses -/

theorem witness_EncodedOperationDecodesToItself : Instr.wellFormed (.mtOther 0xFF) = true := by decide
theorem witness_DecodedWordIsTheEncoding : wordSelector 0x23FFFF ≠ 0 ∧ wordSelector 0x1C00FF ≠ 0 ∧
    decode 0x1C00FF = .ok (.mtOther 0xFF) := by decide
theorem witness_StepRunsTheDecodedOperation : oneByte.cfg.valid = true ∧ oneByte.pending = 0x040000 :: [] ∧
    decode 0x040000 = .ok .rdst := by decide
theorem witness_StepWithoutAnOperation :
    ((oneSample 5).cfg.valid = true ∧ (oneSample 5).pending = [] ∧ popEnabled (oneSample 5) = true) ∧
    (reset.cfg.valid = true ∧ reset.pending = [] ∧ popEnabled reset = false) ∧
    (({ reset with pending := [0x280000] } : State).cfg.valid = true ∧ decode 0x280000 = .error .unknownSelector) ∧
    (State.resetOf { Config.reference with FS := 4799 }).cfg.valid = false := by decide
theorem witness_ResetMeetsTheBlockInvariant : Config.reference.valid = true ∧ (withDisc (.other 3 20)).cfg.valid = true
    := by decide
theorem witness_ResetHoldsTheSpecValues : Config.reference.valid = true ∧ isRef Config.reference = true := by decide
theorem witness_StartMakesANewSession : isRef reset.cfg = true ∧
    ({ rst := true, start := false, s_valid := true, s_data := 1, mb_addr := 0 } : PortIn).rst = true ∧
    ({ rst := false, start := true, s_valid := true, s_data := 1, mb_addr := 0 } : PortIn).start = true := by decide
theorem witness_NoStateSurvivesStart : reset.cfg = oneByte.cfg ∧ (∃ t, exec .start reset = .next t) ∧
    ∃ t, exec .start oneByte = .next t := ⟨rfl, ⟨_, rfl⟩, ⟨_, rfl⟩⟩

/-- The invariants hold of a state that has received a byte, holds a sample and has a read to come. -/
theorem witness_StructureOk : StructureOk oneByte := by
  refine ⟨by decide, by decide, fun _ => by decide, fun _ => by unfold fitsWidth energyOk differenceOk; decide,
    by unfold countersOk; decide, by decide, by decide, ?_⟩
  intro e he
  have : e = (0, 0x04) := by simpa [oneByte, withDec] using he
  subst this
  decide
theorem witness_BlockOk : BlockOk oneByte := by
  refine ⟨witness_StructureOk, by constructor <;> decide, by unfold checksumOk; decide, by unfold positionOk; decide,
    by unfold formatOk; decide, by unfold countOk; decide, by unfold completionOk; decide, by unfold frozenOk; decide,
    ?_⟩
  intro w hw
  have : w = 0x040000 := by simpa [oneByte] using hw
  subst this
  decide
theorem witness_EveryStepKeepsTheStructure : StructureOk oneByte ∧ ∃ t, step oneByte = .next t :=
  ⟨witness_StructureOk, ⟨_, rfl⟩⟩
theorem witness_EveryAgentStepKeepsTheBlockInvariant : BlockOk oneByte ∧ ∃ t, step oneByte = .next t :=
  ⟨witness_BlockOk, ⟨_, rfl⟩⟩
theorem witness_TerminalOutcomeStaysUntilStart : Instr.pop ≠ .start ∧ terminal afterV1.dec.ds = true ∧
    ∃ t, exec .pop afterV1 = .next t := ⟨by decide, by decide, ⟨_, rfl⟩⟩
theorem witness_NoOperationWritesTheParameters : ∃ t, exec .start oneByte = .next t := ⟨_, rfl⟩
theorem witness_BytesAreStoredOnlyAtMsglen :
    (storesNothing (.ovf 0) = true ∧ ∃ t, exec (.ovf 0) (withDec (fullIn .data)) = .next t) ∧
    (storesAtMsglen .mtMdmf = true ∧ (∃ t, exec .mtMdmf reset = .next t) ∧ 1 ≠ reset.dec.msglen.toNat) :=
  ⟨⟨rfl, ⟨_, rfl⟩⟩, rfl, ⟨_, rfl⟩, by decide⟩
theorem witness_UnselectedOperationsChangeNothing : isRef (withDisc .ident).cfg = false ∧
    ¬ (reset.frm.fs = .idle ∧ Machine.trans reset.pll = true ∧ reset.pll.x0 < 0) ∧
    reset.frm.fs = .idle ∧ reset.pll.icont < reset.cfg.PLLISPB2 ∧ terminal afterV1.dec.ds = true ∧
    (withDec (fullIn .dl)).dec.msglen.toNat = 258 ∧ (inDs .ml).dec.ds ≠ .mt := by decide
theorem witness_PushTakesTheSampleWhenThereIsRoom : nearlyFull.inp.fifo.length < nearlyFull.cfg.FIFO_DEPTH ∧
    (after (.push 0) nearlyFull).cfg.FIFO_DEPTH ≤ (after (.push 0) nearlyFull).inp.fifo.length := by decide
theorem witness_StatusWordsHoldTheirFields : Config.reference.valid = true ∧ (withDisc .ident).cfg.valid = true := by
  decide
theorem witness_ExtractReturnsTheRecord : (statusWord oneByte).extractLsb' 0 1 = 0 ∧ popEnabled reset = false ∧
    (statusWord afterV1).extractLsb' 1 3 = 1 ∧ (statusWord (inDs .unknown)).extractLsb' 1 3 = 2 ∧
    (statusWord (inDs .ckfail)).extractLsb' 1 3 = 3 ∧ (statusWord (inDs .malformed)).extractLsb' 1 3 = 4 := by decide
theorem witness_PopWaitsUnlessItsGateIsOpen : popEnabled nearlyFull = false := by decide
theorem witness_PopIsTheSequenceOfItsOperations : popEnabled (oneSample 5) = true ∧ (oneSample 5).inp.fifo = 5 :: [] :=
  by decide

/-- A space frame byte is about to be completed: the last stop bit of 0x55 in `DS_MT`. -/
def lastStopBit : State :=
  { oneSample 1000 with
    pll := { x0 := 1000, x1 := 1000, x2 := 1000, icont := 74, rcnt := 0 }
    frm := { fs := .stop, nb := 8, ns := 0, sr := 0x55 } }
theorem witness_OutcomeFreezesTheCore : popEnabled lastStopBit = true ∧ exec .pop lastStopBit = .next (after .pop lastStopBit) ∧
    terminal (after .pop lastStopBit).dec.ds = true := ⟨by decide, rfl, by decide⟩
theorem witness_PushAndPopCommute : popEnabled (oneSample 5) = true ∧
    (oneSample 5).inp.fifo.length < (oneSample 5).cfg.FIFO_DEPTH ∧
    (∃ t, performAll [.push 7, .pop] (oneSample 5) = .next t) ∧ ∃ t, performAll [.pop, .push 7] (oneSample 5) = .next t :=
  ⟨by decide, by decide, ⟨_, rfl⟩, ⟨_, rfl⟩⟩
theorem witness_InterleavingDoesNotMatter :
    withoutStart [.push 7, .pop, .pop] = true ∧ withoutStart [.pop, .push 7, .rdst, .pop] = true ∧
    pushesOf [.push 7, .pop, .pop] = pushesOf [.pop, .push 7, .rdst, .pop] ∧
    everySampleTaken [.push 7, .pop, .pop] (oneSample 5) ∧ everySampleTaken [.pop, .push 7, .rdst, .pop] (oneSample 5) ∧
    (∃ t, performAll [.push 7, .pop, .pop] (oneSample 5) = .next t ∧ popEnabled t = false) ∧
    ∃ u, performAll [.pop, .push 7, .rdst, .pop] (oneSample 5) = .next u ∧ popEnabled u = false := by
  refine ⟨by decide, by decide, by decide, ?_, ?_, ⟨_, rfl, by decide⟩, ⟨_, rfl, by decide⟩⟩
  · exact everySampleTaken_cons rfl (fun _ _ => by decide) (everySampleTaken_cons rfl (by simp)
      (everySampleTaken_cons rfl (by simp) trivial))
  · exact everySampleTaken_cons rfl (by simp) (everySampleTaken_cons rfl (fun _ _ => by decide)
      (everySampleTaken_cons rfl (by simp) (everySampleTaken_cons rfl (by simp) trivial)))
theorem witness_LiveCoreDrainsAFullFifo : nearlyFull.cfg.valid = true ∧ terminal nearlyFull.dec.ds = false ∧
    popEnabled nearlyFull = false ∧
    (after (.push 0) nearlyFull).inp.fifo.length = (after (.push 0) nearlyFull).cfg.FIFO_DEPTH := by decide
theorem witness_ClockEdgePriorities :
    let p : PortIn := { rst := false, start := false, s_valid := true, s_data := 1, mb_addr := 0 }
    ({ p with rst := true } : PortIn).rst = true ∧ p.rst = false ∧ p.start = false ∧ p.s_valid = true ∧
    (oneSample 5).inp.fifo.length < (oneSample 5).cfg.FIFO_DEPTH ∧ ({ p with s_valid := false } : PortIn).s_valid = false
    := by decide
theorem witness_ReferenceDiscriminatorStep : reset.cfg.DISC = .ref refRoms := by decide
theorem witness_OtherDiscriminatorsStep : (withDisc .ident).cfg.DISC = .ident ∧ (withDisc (.other 3 20)).cfg.DISC = .other 3 20
    := by decide
theorem witness_ToneEnergyFitsItsWidth : (List.replicate 8 (0x8000 : Sample)).length ≤ 8 ∧
    (∀ c ∈ [127] ++ [-127] ++ List.replicate 8 (127 : Int) ++ [0], -127 ≤ c ∧ c ≤ 127) ∧
    ([2 ^ 31 - 1, 1 - 2 ^ 31] : List Int) ≠ [] ∧
    ∀ d ∈ ([2 ^ 31 - 1, 1 - 2 ^ 31] : List Int), -2 ^ 31 < d ∧ d < 2 ^ 31 := by decide
theorem witness_FirstReferenceOutputIsZero : reset.cfg = Config.reference ∧ reset.disc = resetDisc reset.cfg ∧
    ∃ t, exec (.discStep 0x8000) reset = .next t := ⟨rfl, rfl, ⟨_, rfl⟩⟩
/-- In the idle framer a start transition. -/
def startEdge : State := withPll { x0 := -1, x1 := 0, x2 := 1, icont := 9, rcnt := 1 }
theorem witness_HistShiftShiftsTheHistory : fitsWidth (withDisc .ident).cfg.YW (0x7FFF : YWord).toInt ∧
    fitsWidth (withDisc .ident).cfg.YW (-0x8000 : YWord).toInt ∧ 1 ≤ (withDisc .ident).cfg.YW := by
  unfold fitsWidth; decide
theorem witness_HoldAndSnapInTheIdleFramer : startEdge.frm.fs = .idle ∧ Machine.trans startEdge.pll = true ∧
    startEdge.pll.x0 < 0 := by decide
theorem witness_NudgeAndAdvanceInsideAFrame : (atTransition 6).frm.fs ≠ .idle ∧
    Machine.trans (atTransition 6).pll = true := by decide
theorem witness_NudgeMovesTowardZero : (atTransition (-6)).frm.fs ≠ .idle ∧
    Machine.trans (atTransition (-6)).pll = true ∧ ∃ t, exec .pllNudge (atTransition (-6)) = .next t :=
  ⟨by decide, by decide, ⟨_, rfl⟩⟩
theorem witness_LatchTakesTheBitAndTheCycle :
    ((withPll { resetPll with icont := 106 }).cfg.PLLISPB2 : Int) ≤ (withPll { resetPll with icont := 106 }).pll.icont :=
  by decide
/-- Two latches, the second 214 units after the first: the correction falls due at it. -/
def twoLatches : List Instr := [.pllLatch, .pllAdv, .pllAdv, .pllAdv, .pllAdv, .pllAdv, .pllAdv, .pllAdv, .pllLatch]
def beforeLatch : State := { withPll { resetPll with icont := 106, rcnt := 1 } with frm := { resetFramer with fs := .data } }
theorem witness_RoundingIsExactOverItsPeriod : reset.cfg.valid = true ∧
    (withPll { resetPll with rcnt := 2 }).pll.rcnt < reset.cfg.PLL_ROUND_PERIOD ∧
    beforeLatch.pll.rcnt < beforeLatch.cfg.PLL_ROUND_PERIOD ∧ twoLatches.all keepsRounding = true ∧
    latchesIn twoLatches beforeLatch = 2 ∧ extraUnitsIn twoLatches beforeLatch = 1 ∧
    ∃ t, performAll twoLatches beforeLatch = .next t :=
  ⟨by decide, by decide, by decide, by decide, by decide, by decide, ⟨_, rfl⟩⟩
theorem witness_DerivedConstantsAreExact : 0 < Config.reference.BAUD := by decide
theorem witness_AtMostOneLatchPerSample : 4 * ({ Config.reference with FS := 4800 } : Config).BAUD ≤ 4800 ∧
    reset.cfg.valid = true ∧
    (withPll { resetPll with icont := 137 }).pll.icont ≤ (reset.cfg.PLLISPB2 : Int) + reset.cfg.PLLINC - 1 ∧
    ∃ t, exec .pllLatch (withPll { resetPll with icont := 137 }) = .next t :=
  ⟨by decide, by decide, by decide, ⟨_, rfl⟩⟩
theorem witness_StartAndBadStopBits : (inFs .start).frm.fs = .start ∧ (inFs .stop).frm.fs = .stop := by decide
theorem witness_DataBitEntersTheShiftRegister : (inFs .data).frm.fs = .data := by decide
theorem witness_LastStopBitEmitsAndDecodes : lastStopBit.frm.fs = .stop ∧
    (lastStopBit.frm.ns + 1).toNat = lastStopBit.cfg.NSTOP ∧
    (({ inFs .stop with cfg := { Config.reference with NSTOP := 2 } } : State).frm.ns + 1).toNat ≠ 2 := by decide
theorem witness_FramerTableSelectsTheOperation : (inFs .idle).frm.fs = .idle ∧ (inFs .start).frm.fs = .start ∧
    (inFs .data).frm.fs = .data ∧ (inFs .stop).frm.fs = .stop := by decide
theorem witness_FrameDeliversItsByte : reset.cfg.NSTOP = 1 ∧ reset.frm.fs = .idle ∧ terminal reset.dec.ds = false ∧
    terminal afterV1.dec.ds = true ∧ (State.resetOf { Config.reference with NSTOP := 2 }).cfg.NSTOP = 2 := by decide
theorem witness_OverflowRaisesMalformed : terminal (withDec (fullIn .ck)).dec.ds = false ∧
    (withDec (fullIn .ck)).dec.msglen.toNat = (withDec (fullIn .ck)).cfg.MSG_MAX := by decide
theorem witness_AppendStoresAndSums : terminal (inDs .ck).dec.ds = false ∧
    (inDs .ck).dec.msglen.toNat ≠ (inDs .ck).cfg.MSG_MAX := by decide
theorem witness_byteMeets : byteMeets .mt (inDs .mt) ∧ byteMeets .ml (inDs .ml) ∧ byteMeets .dt (inDs .dt) ∧
    byteMeets .dl (inDs .dl) ∧ byteMeets .data (inDs .data) ∧ byteMeets .ck (inDs .ck) := by
  unfold byteMeets; decide
theorem witness_MessageTypeMarksTheFormat : byteMeets .mt (inDs .mt) := witness_byteMeets.1
theorem witness_UnknownBytesEndTheSession : byteMeets .mt (inDs .mt) ∧ byteMeets .dt (inDs .dt) ∧
    reset.dec = resetDecoder ∧ 3 ≤ reset.cfg.MSG_MAX ∧ ∃ t, exec (.mtOther 0) reset = .next t :=
  ⟨witness_byteMeets.1, witness_byteMeets.2.2.1, rfl, by decide, ⟨_, rfl⟩⟩
theorem witness_LengthByteIsRecorded : byteMeets .ml (inDs .ml) := witness_byteMeets.2.1
theorem witness_DataTypeSetsItsFlag : byteMeets .dt (inDs .dt) := witness_byteMeets.2.2.1
theorem witness_FieldLengthOpensOrEndsTheField : byteMeets .dl (inDs .dl) ∧ ¬ fieldsComplete (inDs .dl).dec ∧
    byteMeets .dl (withDec { resetDecoder with ds := .dl, fmt := .sdmf, numseen := true }) ∧
    fieldsComplete { resetDecoder with ds := .dl, fmt := .sdmf, numseen := true } := by
  unfold byteMeets fieldsComplete; decide
theorem witness_DataByteCountsDown : byteMeets .data (inDs .data) ∧ (inDs .data).dec.cnt ≠ 1 ∧
    byteMeets .data (withDec { resetDecoder with ds := .data, cnt := 1 }) ∧
    ¬ fieldsComplete { resetDecoder with ds := .data, cnt := 1 } ∧
    fieldsComplete { resetDecoder with ds := .data, cnt := 1, fmt := .mdmf, numseen := true, nameseen := true } := by
  unfold byteMeets fieldsComplete; decide
theorem witness_ChecksumByteDecidesTheOutcome : byteMeets .ck (inDs .ck) := witness_byteMeets.2.2.2.2.2
theorem witness_DecoderTableSelectsTheOperation : terminal afterV1.dec.ds = true ∧ terminal reset.dec.ds = false := by
  decide
theorem witness_ChecksumLaw :
    (decodeBytes Config.reference [0x04, 0x00, 0x04, 0x00] resetDecoder).ds = .ck ∧
    (decodeBytes Config.reference [0x04, 0x00, 0x04, 0x00] resetDecoder).msglen.toNat ≠ Config.reference.MSG_MAX ∧
    (decodeBytes { Config.reference with MSG_MAX := 4 } [0x04, 0x00, 0x04, 0x00] resetDecoder).ds = .ck ∧
    (decodeBytes { Config.reference with MSG_MAX := 4 } [0x04, 0x00, 0x04, 0x00] resetDecoder).msglen.toNat = 4 := by
  decide
/-- A date/time group's body (45 R223). -/
def newYearsEve : List Byte := ascii ['1', '2', '3', '1', '2', '3', '5', '9']
/-- An SDMF message with a name group before its number, and one with the number alone. -/
theorem witness_SdmfNumberMessageCompletes :
    (∀ g ∈ [((0x07 : Byte), ([0x41] : List Byte))], g.1 ∈ [(0x01 : Byte), 0x07, 0x08] ∧ g.2.length ≤ 255) ∧
    ([0x35, 0x37] : List Byte).length ≤ 255 ∧
    ([0x04, 0x04] ++ groupsBytes [] ++ [0x02, 0x02] ++ [0x35, 0x37] : List Byte).length + 1 ≤ Config.reference.MSG_MAX ∧
    isChecksumOf 0x88 ([0x04, 0x04] ++ groupsBytes [] ++ [0x02, 0x02] ++ [0x35, 0x37]) ∧
    isChecksumOf 0x3C ([0x04, 0x07] ++ groupsBytes [(0x07, [0x41])] ++ [0x02, 0x02] ++ [0x35, 0x37]) ∧
    255 ≤ Config.reference.FIELD_MAX ∧ Config.reference.valid = true := by
  unfold isChecksumOf; decide
theorem witness_RecordDoesNotDependOnFieldOrder :
    newYearsEve.length ≤ 255 ∧ (ascii ['A']).length ≤ 255 ∧ (ascii ['7', '7']).length ≤ 255 ∧
    3 + (groupsBytes [(0x01, newYearsEve), (0x07, ascii ['A']), (0x02, ascii ['7', '7'])]).length
      ≤ Config.reference.MSG_MAX ∧
    isChecksumOf 0x11
      ([0x80, 0x11] ++ groupsBytes [(0x01, newYearsEve), (0x07, ascii ['A']), (0x02, ascii ['7', '7'])]) ∧
    isChecksumOf 0x11
      ([0x80, 0x11] ++ groupsBytes [(0x01, newYearsEve), (0x02, ascii ['7', '7']), (0x07, ascii ['A'])]) ∧
    dateTime newYearsEve = some (ascii ['D', 'e', 'c', 'e', 'm', 'b', 'e', 'r', ' ', '3', '1'],
      ascii ['2', '3', ' ', 'h', 'r', ' ', ':', ' ', '5', '9', ' ', 'm', 'i', 'n']) := by
  unfold isChecksumOf; decide
/-- One accepted group of each kind, and each way in which a group can fail (45 R225 (a) to (d)). -/
theorem witness_ExtractFailsExactlyOnMalformedMessages :
    (∀ g ∈ [((0x01 : Byte), newYearsEve), (0x07, []), (0x04, [0x20])], acceptedGroup g) ∧
    groupFails [0x02] ∧ groupFails [0x02, 0x02, 0x35] ∧ groupFails [0x03, 0x00] ∧
    groupFails (groupBytes (0x01, ascii ['1', '3', '0', '5', '1', '4', '3', '2'])) ∧
    groupFails (groupBytes (0x01, ascii ['0', '1', '0', '5'])) := by
  unfold acceptedGroup; refine ⟨by decide, trivial, ?_, ?_, ?_, ?_⟩
  · exact .inl (by decide)
  · exact .inr (.inl (by decide))
  · exact .inr (.inr ⟨rfl, by decide⟩)
  · exact .inr (.inr ⟨rfl, by decide⟩)
theorem witness_CompleteMessageIsTiledByGroups : Config.reference.valid = true ∧
    (decodeBytes Config.reference v1 resetDecoder).ds = .complete := by decide

end Sys2Proof.Tests
end

section
/-! PROOFS. The scope statements (00_scope.md R7 to R10): the derived constants, the latch of PLL.LATCH, and a step
that performs no pending operation. -/

namespace Sys2Proof.Scope
open Sys2Proof Sys2Proof.Machine

/-! ## The rounding ratio (00_scope.md R8, R9) -/

/-- The period is `BAUD` without the common factor; both cases of R8 agree, as `gcd 0 BAUD = BAUD`. -/
theorem PLL_ROUND_PERIOD_mul_gcd (c : Config) : c.PLL_ROUND_PERIOD * Nat.gcd c.rem32 c.BAUD = c.BAUD := by
  unfold Config.PLL_ROUND_PERIOD
  split
  case isTrue h => simp [h]
  case isFalse => exact Nat.div_mul_cancel (Nat.gcd_dvd_right ..)

/-- The offset is `rem32` without the same factor. -/
theorem PLL_ROUND_OFF_mul_gcd (c : Config) : c.PLL_ROUND_OFF * Nat.gcd c.rem32 c.BAUD = c.rem32 := by
  unfold Config.PLL_ROUND_OFF
  split
  case isTrue h => simp [h]
  case isFalse => exact Nat.div_mul_cancel (Nat.gcd_dvd_left ..)

/-- The offset is below the period, as the remainder `rem32` is below `BAUD`. -/
theorem PLL_ROUND_OFF_lt_PERIOD {c : Config} (hb : 0 < c.BAUD) : c.PLL_ROUND_OFF < c.PLL_ROUND_PERIOD := by
  have hrem : c.rem32 < c.BAUD := Nat.mod_lt _ hb
  refine Nat.lt_of_mul_lt_mul_right (a := Nat.gcd c.rem32 c.BAUD) ?_
  rwa [PLL_ROUND_OFF_mul_gcd, PLL_ROUND_PERIOD_mul_gcd]

/-- `PLLISPB` and `rem32` are quotient and remainder of one division (00_scope.md R8). -/
theorem PLLISPB_mul_BAUD_add_rem32 (c : Config) : c.PLLISPB * c.BAUD + c.rem32 = 32 * c.FS :=
  Nat.div_add_mod' ..

/-- Settles O39: with the common factor `g` restored, `PERIOD * g` and `OFF * g` are divisor and remainder of
`32 * FS / BAUD`. -/
theorem derivedConstantsAreExact : Obligations.DerivedConstantsAreExact := by
  intro c hb
  have hlt := PLL_ROUND_OFF_lt_PERIOD hb
  refine ⟨Nat.zero_lt_of_lt hlt, hlt, ?_⟩
  have hper := PLL_ROUND_PERIOD_mul_gcd c
  have hoff := PLL_ROUND_OFF_mul_gcd c
  set g := Nat.gcd c.rem32 c.BAUD
  calc (c.PLLISPB * c.PLL_ROUND_PERIOD + c.PLL_ROUND_OFF) * c.BAUD
      = (c.PLLISPB * c.PLL_ROUND_PERIOD + c.PLL_ROUND_OFF) * (c.PLL_ROUND_PERIOD * g) := by rw [hper]
    _ = (c.PLLISPB * (c.PLL_ROUND_PERIOD * g) + c.PLL_ROUND_OFF * g) * c.PLL_ROUND_PERIOD := by ring
    _ = 32 * c.FS * c.PLL_ROUND_PERIOD := by rw [hper, hoff, PLLISPB_mul_BAUD_add_rem32]

/-! ## What `Config.valid` accepts (00_scope.md R7, R10; log 8) -/

/-- A ROM word, as a range (log 8). -/
theorem romWord_iff (k : Int) : romWord k = true ↔ -127 ≤ k ∧ k ≤ 127 := by
  simp only [romWord, Bool.and_eq_true, decide_eq_true_eq]

/-- The ROMs of `DISC_REF`, all four alike (41 R135, log 8). -/
theorem fits_ref_iff (w : Nat) (r : Roms) : (Disc.ref r).fits w = true ↔
    ∀ rom ∈ [r.CM_I, r.CM_Q, r.CS_I, r.CS_Q], rom.length = w ∧ ∀ k ∈ rom, -127 ≤ k ∧ k ≤ 127 := by
  simp only [Disc.fits, Bool.and_eq_true, beq_iff_eq, List.all_eq_true, romWord_iff, List.forall_mem_cons]
  tauto

theorem fits_ident (w : Nat) : Disc.ident.fits w = true := rfl

theorem fits_other_iff (w name width : Nat) : (Disc.other name width).fits w = true ↔ 1 ≤ width :=
  decide_eq_true_iff

/-- The constraints of R7 one by one, then those of log 8. -/
theorem valid_iff (c : Config) : c.valid = true ↔
    (0 < c.FS ∧ 0 < c.BAUD ∧ 4 * c.BAUD ≤ c.FS ∧ (c.NSTOP = 1 ∨ c.NSTOP = 2) ∧
      1 ≤ c.GATE_WINDOW ∧ c.GATE_WINDOW ≤ c.FIFO_DEPTH ∧ 3 ≤ c.MSG_MAX) ∧
    c.MSG_MAX ≤ 511 ∧ c.DISC.fits c.W = true := by
  simp only [Config.valid, Bool.and_eq_true, Bool.or_eq_true, beq_iff_eq, decide_eq_true_eq, and_assoc]

/-! ## At most one latch per sample (00_scope.md R10, 42 R157) -/

/-- `FS >= 4*BAUD` makes a cycle at least `32 * 4` units long (00_scope.md R10). -/
theorem le_PLLISPB {c : Config} (hb : 0 < c.BAUD) (hfs : 4 * c.BAUD ≤ c.FS) : 128 ≤ c.PLLISPB :=
  (Nat.le_div_iff_mul_le hb).2 (by omega)

/-- PLL.LATCH takes at least a whole cycle off the phase, and its PLL.ROUND adds nothing (42 R157, R158). -/
theorem runPllLatch_icont_le (s : State) : (runPllLatch s).pll.icont ≤ s.pll.icont - s.cfg.PLLISPB := by
  obtain ⟨-, -, -, -, hle⟩ := roundPll_frame s.cfg { s.pll with icont := s.pll.icont - s.cfg.PLLISPB }
  exact hle

/-- PLL.LATCH leaves the parameters alone (10_state.md R42). -/
theorem runPllLatch_cfg (s : State) : (runPllLatch s).cfg = s.cfg := rfl

/-- Settles O40: the bounds by `128 <= PLLISPB`; a latch subtracts `PLLISPB`, which exceeds the increment `PLLINC`,
and where none is due `icont` is below the threshold already. -/
theorem atMostOneLatchPerSample : Obligations.AtMostOneLatchPerSample := by
  refine ⟨fun c hb hfs => ?_, fun s t hv hic h => ?_⟩
  · have hispb := le_PLLISPB hb hfs
    unfold Config.PLLISPB2 Config.PLLIDS Config.PLLINC
    omega
  · obtain ⟨⟨-, hb, hfs, -⟩, -⟩ := (valid_iff s.cfg).1 hv
    have hispb := le_PLLISPB hb hfs
    rcases performIf_cases h with ⟨-, rfl⟩ | ⟨hnot, rfl⟩
    · have hle := runPllLatch_icont_le s
      have hinc : s.cfg.PLLINC = 32 := rfl
      rw [runPllLatch_cfg]
      omega
    · exact Int.not_le.1 fun hdue => by simp [(latchDue_iff ..).2 hdue] at hnot

/-! ## A step without a pending operation (logs 1, 3, 8) -/

theorem nextOp_of_popEnabled {s : State} (hp : s.pending = []) (he : popEnabled s = true) :
    nextOp s = .corePops := by
  simp [nextOp, hp, he]

theorem nextOp_of_not_popEnabled {s : State} (hp : s.pending = []) (he : popEnabled s = false) :
    nextOp s = .idle := by
  simp [nextOp, hp, he]

theorem nextOp_of_decode_error {s : State} {w : OpWord} {rest : List OpWord} {e : Reject}
    (hp : s.pending = w :: rest) (hd : decode w = .error e) : nextOp s = .undecodable e := by
  simp [nextOp, hp, hd]

theorem step_corePops {s : State} (hv : s.cfg.valid = true) (hn : nextOp s = .corePops) :
    step s = exec .pop s := by
  simp [step, hv, hn]

theorem step_idle {s : State} (hv : s.cfg.valid = true) (hn : nextOp s = .idle) : step s = .next (quiet s) := by
  simp [step, hv, hn]

theorem step_undecodable {s : State} {e : Reject} (hv : s.cfg.valid = true) (hn : nextOp s = .undecodable e) :
    step s = .fault (.notAnOperation e) := by
  simp [step, hv, hn]

theorem step_of_not_valid {s : State} (hv : s.cfg.valid = false) : step s = .refused .configurationRefused := by
  simp [step, hv]

/-- Settles O5, a case of `nextOp` for each clause on `step`, and the constraints one by one for what is refused. -/
theorem stepWithoutAnOperation : Obligations.StepWithoutAnOperation := by
  refine ⟨fun s hv hp he => step_corePops hv (nextOp_of_popEnabled hp he),
    fun s hv hp he => step_idle hv (nextOp_of_not_popEnabled hp he),
    fun s w rest e hv hp hd => step_undecodable hv (nextOp_of_decode_error hp hd),
    fun s hv => step_of_not_valid hv, fun c => ?_⟩
  rw [valid_iff]
  cases c.DISC with
  | ref r => simp only [fits_ref_iff]
  | ident => simp only [fits_ident]
  | other name width => simp only [fits_other_iff]

end Sys2Proof.Scope
end


section
/-! PROOFS. The structural invariant (10_state.md R21 to R31, R40; 41 R136 to R139): every operation of the table
keeps it. Each part of a POP keeps it on its own; an operation of the table is one of these parts, or a chain of
them. -/

namespace Sys2Proof.Invariants
open Sys2Proof Sys2Proof.Machine Sys2Proof.Scope

/-! ## What an operation's answer is -/

/-- What holds of an operation's result, and of the state before it, holds of its answer (log 4). -/
theorem performIf_keeps {P : State → Prop} {c : Bool} {u s t : State} (h : performIf c u s = .next t)
    (hu : c = true → P u) (hs : P s) : P t := by
  rcases performIf_cases h with ⟨hc, rfl⟩ | ⟨-, rfl⟩
  · exact hu hc
  · exact hs

/-- An operation without a condition answers its result. -/
theorem next_keeps {P : State → Prop} {u t : State} (h : (.next u : Result) = .next t) (hu : P u) : P t := by
  cases h
  exact hu

/-! ## The parameters and the pending operations (10_state.md R42, log 3) -/

/-- `t` is a state of the block `s` is a state of, with the same operations still to be performed. -/
def SameBuild (s t : State) : Prop := t.cfg = s.cfg ∧ t.pending = s.pending

theorem runFrData_sameBuild (b : Bool) (s : State) : SameBuild s (runFrData b s) := by
  unfold runFrData
  split <;> exact ⟨rfl, rfl⟩

theorem runFrStopOk_sameBuild (s : State) : SameBuild s (runFrStopOk s) := by
  unfold runFrStopOk
  split <;> exact ⟨rfl, rfl⟩

theorem execPush_sameBuild {x : Sample} {s t : State} (h : execPush x s = .next t) : SameBuild s t := by
  refine next_keeps h ?_
  split <;> exact ⟨rfl, rfl⟩

theorem exec_sameBuild {i : Instr} {s t : State} (h : exec i s = .next t) : SameBuild s t := by
  have hself : SameBuild s s := ⟨rfl, rfl⟩
  cases i
  case frame v =>
    obtain ⟨hcfg, -, -, -, -, -, hpending⟩ := lineBits_frame true (frameBits s.cfg.NSTOP v) (quiet s)
    exact next_keeps h ⟨hcfg, hpending⟩
  case push x => exact execPush_sameBuild h
  case pop =>
    obtain ⟨hcfg, -, hpending, -⟩ := runPop_frame s
    exact performIf_keeps h (fun _ => ⟨hcfg, hpending⟩) hself
  case discStep x =>
    obtain ⟨hcfg, -, -, -, -, -, -, hpending⟩ := runDiscStep_frame x s
    exact next_keeps h ⟨hcfg, hpending⟩
  case frData b => exact performIf_keeps h (fun _ => runFrData_sameBuild b s) hself
  case frStopOk => exact performIf_keeps h (fun _ => runFrStopOk_sameBuild s) hself
  case start | rdst | rdmb | histShift | pllHold | pllRound | extract => exact next_keeps h ⟨rfl, rfl⟩
  all_goals exact performIf_keeps h (fun _ => ⟨rfl, rfl⟩) hself

/-- Settles O13: the operations with more than one case by what their parts leave alone, every other one by the
fields it sets. -/
theorem noOperationWritesTheParameters : Obligations.NoOperationWritesTheParameters :=
  fun _ _ _ h => exec_sameBuild h

/-! ## The structural invariant, its parts by name -/

/-- The structural invariant of a block whose configuration is accepted. -/
structure Sound (s : State) : Prop where
  accepted : s.cfg.valid = true
  fifo : s.inp.fifo.length ≤ s.cfg.FIFO_DEPTH
  rounding : s.pll.rcnt < s.cfg.PLL_ROUND_PERIOD
  lines : linesOk s
  widths : widthsOk s
  counters : countersOk s
  buffer : bufferOk s

theorem sound_iff (s : State) : Sound s ↔ s.cfg.valid = true ∧ StructureOk s := by
  constructor
  · intro h
    exact ⟨h.accepted, h.fifo, h.rounding, h.lines, h.widths, h.counters, h.buffer⟩
  · intro ⟨haccepted, hfifo, hrounding, hlines, hwidths, hcounters, hbuffer⟩
    exact ⟨haccepted, hfifo, hrounding, hlines, hwidths, hcounters, hbuffer⟩

/-- The history is within `YW` bits (10_state.md R26). -/
theorem Sound.history {s : State} (h : Sound s) (hw : widthsStated s.cfg) :
    fitsWidth s.cfg.YW s.pll.x0 ∧ fitsWidth s.cfg.YW s.pll.x1 ∧ fitsWidth s.cfg.YW s.pll.x2 := by
  obtain ⟨h0, h1, h2, -, -⟩ := h.widths hw
  exact ⟨h0, h1, h2⟩

/-- The output is within `YW` bits (41 R130, R139). -/
theorem Sound.output {s : State} (h : Sound s) (hw : widthsStated s.cfg) : fitsWidth s.cfg.YW s.wires.y := by
  obtain ⟨-, -, -, hy, -⟩ := h.widths hw
  exact hy

/-- The widths of `DISC_REF` (10_state.md R25, 41 R136 to R138). -/
theorem Sound.reference {s : State} (h : Sound s) (hw : widthsStated s.cfg) (hr : isRef s.cfg = true) :
    (∀ d ∈ s.disc.dl, differenceOk d) ∧ energyOk s.wires.em ∧ energyOk s.wires.es ∧ differenceOk s.wires.d := by
  obtain ⟨-, -, -, -, href⟩ := h.widths hw
  exact href hr

/-! ## The invariant under an update of one part of the state -/

theorem sound_setTrace {s : State} (v : Trace) (h : Sound s) : Sound (s.setTrace v) := { h with }

theorem sound_setHost {s : State} (v : HostView) (h : Sound s) : Sound (s.setHost v) := { h with }

theorem sound_setPending {s : State} (v : List OpWord) (h : Sound s) : Sound (s.setPending v) := { h with }

theorem sound_quiet {s : State} (h : Sound s) : Sound (quiet s) := sound_setTrace noTrace h

theorem sound_setInp {s : State} {v : InputStage} (h : Sound s) (hv : v.fifo.length ≤ s.cfg.FIFO_DEPTH) :
    Sound (s.setInp v) := { h with fifo := hv }

theorem sound_setFrm {s : State} {v : Framer} (h : Sound s) (hv : countersOk (s.setFrm v)) :
    Sound (s.setFrm v) := { h with counters := hv }

theorem sound_setDec {s : State} {v : Decoder} (h : Sound s) (hv : bufferOk (s.setDec v)) :
    Sound (s.setDec v) := { h with buffer := hv }

theorem sound_setPll {s : State} {v : Pll} (h : Sound s) (hr : v.rcnt < s.cfg.PLL_ROUND_PERIOD)
    (hx : widthsStated s.cfg → fitsWidth s.cfg.YW v.x0 ∧ fitsWidth s.cfg.YW v.x1 ∧ fitsWidth s.cfg.YW v.x2) :
    Sound (s.setPll v) :=
  { h with
    rounding := hr
    widths := fun hw =>
      let ⟨h0, h1, h2⟩ := hx hw
      ⟨h0, h1, h2, h.output hw, h.reference hw⟩ }

theorem sound_setDisc {s : State} {v : DiscState} (h : Sound s) (hl : linesOk (s.setDisc v))
    (hd : widthsStated s.cfg → isRef s.cfg = true → ∀ d ∈ v.dl, differenceOk d) : Sound (s.setDisc v) :=
  { h with
    lines := hl
    widths := fun hw =>
      let ⟨h0, h1, h2⟩ := h.history hw
      ⟨h0, h1, h2, h.output hw, fun hr => ⟨hd hw hr, (h.reference hw hr).2⟩⟩ }

theorem sound_setWires {s : State} {v : Wires} (h : Sound s) (hy : widthsStated s.cfg → fitsWidth s.cfg.YW v.y)
    (hw : widthsStated s.cfg → isRef s.cfg = true → energyOk v.em ∧ energyOk v.es ∧ differenceOk v.d) :
    Sound (s.setWires v) :=
  { h with
    widths := fun hs =>
      let ⟨h0, h1, h2⟩ := h.history hs
      ⟨h0, h1, h2, hy hs, fun hr => ⟨(h.reference hs hr).1, hw hs hr⟩⟩ }

/-! ## The constants of an accepted configuration (00_scope.md R7, R8, R11) -/

theorem BAUD_pos {c : Config} (hv : c.valid = true) : 0 < c.BAUD := by
  obtain ⟨⟨-, hb, -⟩, -⟩ := (valid_iff c).1 hv
  exact hb

theorem NSTOP_cases {c : Config} (hv : c.valid = true) : c.NSTOP = 1 ∨ c.NSTOP = 2 := by
  obtain ⟨⟨-, -, -, hn, -⟩, -⟩ := (valid_iff c).1 hv
  exact hn

theorem MSG_MAX_bounds {c : Config} (hv : c.valid = true) : 3 ≤ c.MSG_MAX ∧ c.MSG_MAX ≤ 511 := by
  obtain ⟨⟨-, -, -, -, -, -, hlo⟩, hhi, -⟩ := (valid_iff c).1 hv
  exact ⟨hlo, hhi⟩

theorem W_pos {c : Config} (hv : c.valid = true) : 0 < c.W := by
  obtain ⟨⟨hfs, hb, -⟩, -⟩ := (valid_iff c).1 hv
  exact Nat.div_pos (by omega) hb

theorem L_pos (c : Config) : 0 < c.L := Nat.lt_of_lt_of_le Nat.zero_lt_one (Nat.le_max_left ..)

theorem isRef_iff (c : Config) : isRef c = true ↔ ∃ r, c.DISC = .ref r := by
  cases h : c.DISC <;> simp [isRef, h]

theorem isRef_of_ident {c : Config} (h : c.DISC = .ident) : isRef c = false := by simp [isRef, h]

theorem isRef_of_other {c : Config} {n width : Nat} (h : c.DISC = .other n width) : isRef c = false := by
  simp [isRef, h]

theorem YW_of_ident {c : Config} (h : c.DISC = .ident) : c.YW = 16 := by simp [Config.YW, h]

theorem YW_of_other {c : Config} {n width : Nat} (h : c.DISC = .other n width) : c.YW = width := by
  simp [Config.YW, h]

theorem YW_of_isRef {c : Config} (h : isRef c = true) : c.YW = 32 + ceilLog2 c.L := by
  obtain ⟨r, hr⟩ := (isRef_iff c).1 h
  simp [Config.YW, hr]

theorem width_pos {c : Config} {n width : Nat} (hv : c.valid = true) (h : c.DISC = .other n width) : 1 ≤ width := by
  obtain ⟨-, -, hfits⟩ := (valid_iff c).1 hv
  rw [h] at hfits
  exact (fits_other_iff ..).1 hfits

theorem YW_pos {c : Config} (hv : c.valid = true) : 1 ≤ c.YW := by
  cases h : c.DISC with
  | ref r => rw [YW_of_isRef ((isRef_iff c).2 ⟨r, h⟩)]; omega
  | ident => rw [YW_of_ident h]; omega
  | other n width => rw [YW_of_other h]; exact width_pos hv h

/-- The ROMs in use are those `Config.valid` accepts (41 R135, log 8). -/
theorem romsOf_accepted {c : Config} (hv : c.valid = true) (hr : isRef c = true) :
    ∀ rom ∈ [(romsOf c).CM_I, (romsOf c).CM_Q, (romsOf c).CS_I, (romsOf c).CS_Q],
      rom.length = c.W ∧ ∀ k ∈ rom, -127 ≤ k ∧ k ≤ 127 := by
  obtain ⟨r, h⟩ := (isRef_iff c).1 hr
  obtain ⟨-, -, hfits⟩ := (valid_iff c).1 hv
  have hroms : romsOf c = r := by simp [romsOf, h]
  rw [h] at hfits
  rw [hroms]
  exact (fits_ref_iff ..).1 hfits

/-! ## The widths of the discriminator (41 R136 to R139) -/

theorem fitsWidth_zero (n : Nat) : fitsWidth n 0 := by
  have h : (0 : Int) < 2 ^ (n - 1) := by positivity
  exact ⟨by omega, h⟩

theorem sampleValue_bounds (x : Sample) : -32768 ≤ sampleValue x ∧ sampleValue x ≤ 32767 := by
  have hlo := BitVec.le_toInt x
  have hhi := BitVec.toInt_lt (x := x)
  unfold sampleValue
  omega

/-- A correlation gains at most `32768 * 127` per tap (41 R136). -/
theorem abs_correlate_le (xs : List Sample) (cs : List Int) (h : ∀ k ∈ cs, -127 ≤ k ∧ k ≤ 127) :
    |correlate xs cs| ≤ 4161536 * cs.length := by
  induction cs generalizing xs with
  | nil => cases xs <;> simp [correlate]
  | cons k cs ih =>
    cases xs with
    | nil => simp only [correlate, abs_zero]; positivity
    | cons x xs =>
      obtain ⟨hk, hcs⟩ := List.forall_mem_cons.1 h
      have hx : |sampleValue x| ≤ 32768 := abs_le.2 (by have := sampleValue_bounds x; omega)
      have htap : |sampleValue x * k| ≤ 32768 * 127 := by
        rw [abs_mul]
        exact mul_le_mul hx (abs_le.2 hk) (abs_nonneg k) (by norm_num)
      calc |sampleValue x * k + correlate xs cs|
          ≤ |sampleValue x * k| + |correlate xs cs| := abs_add_le ..
        _ ≤ 4161536 * (k :: cs).length := by
          have := ih xs hcs
          rw [List.length_cons]
          push_cast
          omega

/-- The scaled square of a correlation over at most eight taps is below `2 ^ 30` (41 R136, log 17). -/
theorem asr_correlate_sq_lt {xs : List Sample} {cs : List Int} (hk : ∀ k ∈ cs, -127 ≤ k ∧ k ≤ 127)
    (hlen : cs.length ≤ 8) :
    0 ≤ asr (correlate xs cs) 10 * asr (correlate xs cs) 10 ∧
    asr (correlate xs cs) 10 * asr (correlate xs cs) 10 < 2 ^ 30 := by
  have hc := abs_le.1 (abs_correlate_le xs cs hk)
  have ha : -32512 ≤ asr (correlate xs cs) 10 ∧ asr (correlate xs cs) 10 ≤ 32512 := by
    unfold asr
    omega
  refine ⟨mul_self_nonneg _, ?_⟩
  calc asr (correlate xs cs) 10 * asr (correlate xs cs) 10 ≤ 32512 * 32512 :=
        abs_le_iff_mul_self_le.1 (by rw [abs_of_nonneg (by norm_num : (0 : Int) ≤ 32512)]; exact abs_le.2 ha)
    _ < 2 ^ 30 := by norm_num

/-- An energy over at most eight taps (41 R136, R137). -/
theorem toneEnergy_energyOk {ci cq : List Int} (xs : List Sample) (hi : ∀ k ∈ ci, -127 ≤ k ∧ k ≤ 127)
    (hq : ∀ k ∈ cq, -127 ≤ k ∧ k ≤ 127) (hli : ci.length ≤ 8) (hlq : cq.length ≤ 8) :
    energyOk (toneEnergy ci cq xs) := by
  obtain ⟨hi0, hi1⟩ := asr_correlate_sq_lt (xs := xs) hi hli
  obtain ⟨hq0, hq1⟩ := asr_correlate_sq_lt (xs := xs) hq hlq
  unfold energyOk toneEnergy
  omega

/-- The difference of two energies (41 R138). -/
theorem differenceOk_sub {e f : Int} (he : energyOk e) (hf : energyOk f) : differenceOk (e - f) := by
  unfold energyOk at he hf
  unfold differenceOk
  omega

/-- The sum of a delay line of differences (41 R139). -/
theorem abs_lineSum_le (ds : List Int) (h : ∀ d ∈ ds, differenceOk d) :
    |lineSum ds| ≤ ds.length * (2 ^ 31 - 1) := by
  induction ds with
  | nil => simp [lineSum]
  | cons d ds ih =>
    obtain ⟨hd, hds⟩ := List.forall_mem_cons.1 h
    have hd' : |d| ≤ 2 ^ 31 - 1 := abs_le.2 (by unfold differenceOk at hd; omega)
    calc |d + lineSum ds| ≤ |d| + |lineSum ds| := abs_add_le ..
      _ ≤ (d :: ds).length * (2 ^ 31 - 1) := by
        have := ih hds
        rw [List.length_cons]
        push_cast
        linarith

theorem le_two_pow_ceilLog2 (n : Nat) : n ≤ 2 ^ ceilLog2 n := by
  unfold ceilLog2
  split
  · simpa using ‹n ≤ 1›
  · have := Nat.lt_log2_self (n := n - 1)
    omega

/-- The sum of at most `n` differences is a signed value of `32 + ceil(log2 n)` bits (41 R139). -/
theorem lineSum_fitsWidth {n : Nat} {ds : List Int} (hd : ∀ d ∈ ds, differenceOk d) (hlen : ds.length ≤ n)
    (hn : 0 < n) : fitsWidth (32 + ceilLog2 n) (lineSum ds) := by
  have hn' : (n : Int) ≤ 2 ^ ceilLog2 n := by exact_mod_cast le_two_pow_ceilLog2 n
  have hpow : (2 : Int) ^ (32 + ceilLog2 n - 1) = 2 ^ ceilLog2 n * 2 ^ 31 := by
    rw [← pow_add]
    congr 1
    omega
  have hsum : |lineSum ds| < 2 ^ (32 + ceilLog2 n - 1) := by
    calc |lineSum ds| ≤ ds.length * (2 ^ 31 - 1) := abs_lineSum_le ds hd
      _ ≤ n * (2 ^ 31 - 1) := by gcongr
      _ < n * 2 ^ 31 := by omega
      _ ≤ 2 ^ (32 + ceilLog2 n - 1) := by rw [hpow]; gcongr
  obtain ⟨hlo, hhi⟩ := abs_lt.1 hsum
  exact ⟨hlo.le, hhi⟩

theorem mem_shiftLine {α : Type} {n : Nat} {a b : α} {line : List α} (h : b ∈ shiftLine n a line) :
    b = a ∨ b ∈ line := by
  rcases List.mem_cons.1 h with h | h
  · exact .inl h
  · exact .inr (List.mem_of_mem_take h)

theorem shiftLine_length {α : Type} {n : Nat} (a : α) {line : List α} (hn : 0 < n) (h : line.length = n) :
    (shiftLine n a line).length = n := by
  simp only [shiftLine, List.length_cons, List.length_take]
  omega

/-! ## The discriminator keeps the invariant (41 R130 to R142) -/

theorem sound_shiftSample {s : State} (x : Sample) (h : Sound s) : Sound (shiftSample x s) :=
  sound_setDisc h (fun hr => ⟨shiftLine_length x (W_pos h.accepted) (h.lines hr).1, (h.lines hr).2⟩)
    fun hw hr => (h.reference hw hr).1

theorem sound_runMfMark {s : State} (h : Sound s) : Sound (runMfMark s) := by
  refine sound_setWires h h.output fun hw hr => ?_
  obtain ⟨-, -, hes, hd⟩ := h.reference hw hr
  have hroms := romsOf_accepted h.accepted hr
  obtain ⟨hli, hi⟩ := hroms (romsOf s.cfg).CM_I (by simp)
  obtain ⟨hlq, hq⟩ := hroms (romsOf s.cfg).CM_Q (by simp)
  exact ⟨toneEnergy_energyOk _ hi hq (hli ▸ (hw hr).1) (hlq ▸ (hw hr).1), hes, hd⟩

theorem sound_runMfSpace {s : State} (h : Sound s) : Sound (runMfSpace s) := by
  refine sound_setWires h h.output fun hw hr => ?_
  obtain ⟨-, hem, -, hd⟩ := h.reference hw hr
  have hroms := romsOf_accepted h.accepted hr
  obtain ⟨hli, hi⟩ := hroms (romsOf s.cfg).CS_I (by simp)
  obtain ⟨hlq, hq⟩ := hroms (romsOf s.cfg).CS_Q (by simp)
  exact ⟨hem, toneEnergy_energyOk _ hi hq (hli ▸ (hw hr).1) (hlq ▸ (hw hr).1), hd⟩

theorem sound_runDiff {s : State} (h : Sound s) : Sound (runDiff s) := by
  refine sound_setWires h h.output fun hw hr => ?_
  obtain ⟨-, hem, hes, -⟩ := h.reference hw hr
  exact ⟨hem, hes, differenceOk_sub hem hes⟩

theorem sound_runPostf {s : State} (h : Sound s) (hr : isRef s.cfg = true) : Sound (runPostf s) := by
  have hlen := shiftLine_length s.wires.d (L_pos s.cfg) (h.lines hr).2
  have hdl : widthsStated s.cfg → ∀ d ∈ shiftLine s.cfg.L s.wires.d s.disc.dl, differenceOk d := by
    intro hw d hd
    obtain ⟨hline, -, -, hnew⟩ := h.reference hw hr
    rcases mem_shiftLine hd with rfl | hd
    · exact hnew
    · exact hline d hd
  have hdisc : Sound (s.setDisc { s.disc with dl := shiftLine s.cfg.L s.wires.d s.disc.dl }) :=
    sound_setDisc h (fun hr => ⟨(h.lines hr).1, hlen⟩) fun hw _ => hdl hw
  refine sound_setWires hdisc (fun hw => ?_) fun hw hr => (h.reference hw hr).2
  rw [State.setDisc_cfg, YW_of_isRef hr]
  exact lineSum_fitsWidth (hdl hw) hlen.le (L_pos s.cfg)

theorem sound_refStep {s : State} (x : Sample) (h : Sound s) (hr : isRef s.cfg = true) : Sound (refStep x s) :=
  sound_runPostf (sound_runDiff (sound_runMfSpace (sound_runMfMark (sound_shiftSample x h)))) hr

theorem sound_identStep {s : State} (x : Sample) (h : Sound s) (hd : s.cfg.DISC = .ident) :
    Sound (identStep x s) := by
  refine sound_setWires h (fun _ => ?_) fun hw hr => (h.reference hw hr).2
  have hx := sampleValue_bounds x
  rw [YW_of_ident hd]
  exact ⟨hx.1, Int.lt_of_le_of_lt hx.2 (by norm_num)⟩

theorem sound_otherStep {s : State} {n width : Nat} (x : Sample) (h : Sound s)
    (hd : s.cfg.DISC = .other n width) : Sound (otherStep n width x s) := by
  have hdisc : Sound (s.setDisc { s.disc with ext := (Config.otherStep n s.disc.ext x).1 }) :=
    sound_setDisc h h.lines fun hw hr => (h.reference hw hr).1
  refine sound_setWires hdisc (fun _ => ?_) fun hw hr => (h.reference hw hr).2
  rw [State.setDisc_cfg, YW_of_other hd]
  exact sext_fitsWidth _ (width_pos h.accepted hd)

theorem sound_runDiscStep {s : State} (x : Sample) (h : Sound s) : Sound (runDiscStep x s) := by
  rcases runDiscStep_cases x s with ⟨r, hd, heq⟩ | ⟨hd, heq⟩ | ⟨n, width, hd, heq⟩ <;> rw [heq]
  · exact sound_refStep x h ((isRef_iff _).2 ⟨r, hd⟩)
  · exact sound_identStep x h hd
  · exact sound_otherStep x h hd

/-! ## The PLL keeps the invariant (42 R151 to R158) -/

theorem sound_runHistShift {s : State} {y : Int} (h : Sound s)
    (hy : widthsStated s.cfg → fitsWidth s.cfg.YW y) : Sound (runHistShift y s) :=
  sound_setPll h h.rounding fun hw =>
    let ⟨h0, h1, _⟩ := h.history hw
    ⟨hy hw, h0, h1⟩

theorem PLL_ROUND_PERIOD_pos {c : Config} (hv : c.valid = true) : 0 < c.PLL_ROUND_PERIOD :=
  Nat.zero_lt_of_lt (PLL_ROUND_OFF_lt_PERIOD (BAUD_pos hv))

/-- The rounding counter stays below its period (10_state.md R28): the offset is below it too. -/
theorem roundPll_rcnt_lt {c : Config} {p : Pll} (hv : c.valid = true) (h : p.rcnt < c.PLL_ROUND_PERIOD) :
    (roundPll c p).rcnt < c.PLL_ROUND_PERIOD := by
  have hoff := PLL_ROUND_OFF_lt_PERIOD (BAUD_pos hv)
  rcases Nat.lt_or_ge (p.rcnt + c.PLL_ROUND_OFF) c.PLL_ROUND_PERIOD with hlt | hge
  · rw [roundPll_of_lt hlt]
    exact hlt
  · rw [roundPll_of_le hge]
    exact show p.rcnt + c.PLL_ROUND_OFF - c.PLL_ROUND_PERIOD < c.PLL_ROUND_PERIOD by omega

theorem sound_runPllSnap {s : State} (h : Sound s) : Sound (runPllSnap s) := by
  obtain ⟨hnb, -, hns, -⟩ := h.counters
  exact sound_setFrm (sound_setPll h (PLL_ROUND_PERIOD_pos h.accepted) h.history)
    ⟨hnb, by simp, hns, by simp⟩

theorem sound_runPllNudge {s : State} (h : Sound s) : Sound (runPllNudge s) :=
  sound_setPll h h.rounding h.history

theorem sound_runPllAdv {s : State} (h : Sound s) : Sound (runPllAdv s) :=
  sound_setPll h h.rounding h.history

theorem sound_runPllRound {s : State} (h : Sound s) : Sound (runPllRound s) := by
  refine sound_setPll h (roundPll_rcnt_lt h.accepted h.rounding) fun hw => ?_
  obtain ⟨h0, h1, h2, -⟩ := roundPll_frame s.cfg s.pll
  rw [h0, h1, h2]
  exact h.history hw

theorem sound_runPllLatch {s : State} (h : Sound s) : Sound (runPllLatch s) :=
  sound_setTrace _ (sound_runPllRound (sound_setPll h h.rounding h.history))

/-! ## The decoder keeps the message buffer (20_memory.md R61, 44 R192) -/

/-- `bufferOk` of a decoder and the configuration it is built with. -/
def storedOk (c : Config) (d : Decoder) : Prop :=
  d.msglen.toNat ≤ c.MSG_MAX ∧ Memory.wf d.msgbuf ∧ ∀ e ∈ d.msgbuf, e.1 < d.msglen.toNat

theorem bufferOk_iff (s : State) : bufferOk s ↔ storedOk s.cfg s.dec := Iff.rfl

theorem storedOk.canonical {c : Config} {d : Decoder} (h : storedOk c d) : Memory.wf d.msgbuf := by
  obtain ⟨-, hwf, -⟩ := h
  exact hwf

/-- The buffer is all that counts. -/
theorem storedOk.congr {c : Config} {d e : Decoder} (h : storedOk c d) (hbuf : e.msgbuf = d.msgbuf)
    (hlen : e.msglen = d.msglen) : storedOk c e := by
  unfold storedOk
  rw [hbuf, hlen]
  exact h

/-- With room in the buffer `msglen` counts one more byte, and does not wrap (10_state.md R40, log 16). -/
theorem appendByte_msglen_toNat {c : Config} {d : Decoder} (v : Byte) (hv : c.valid = true)
    (h : storedOk c d) (hroom : d.msglen.toNat ≠ c.MSG_MAX) :
    (appendByte v d).msglen.toNat = d.msglen.toNat + 1 := by
  obtain ⟨hle, -, -⟩ := h
  have hmax := (MSG_MAX_bounds hv).2
  rw [appendByte_msglen, BitVec.toNat_add_of_lt (by simp; omega)]
  rfl

theorem storedOk_appendByte {c : Config} {d : Decoder} (v : Byte) (hv : c.valid = true) (h : storedOk c d)
    (hroom : d.msglen.toNat ≠ c.MSG_MAX) : storedOk c (appendByte v d) := by
  have hlen := appendByte_msglen_toNat v hv h hroom
  obtain ⟨hle, hwf, hbelow⟩ := h
  refine ⟨by omega, Memory.write_wf _ v hwf, fun e he => ?_⟩
  rcases Memory.mem_write he with ⟨rfl, -⟩ | he
  · exact show d.msglen.toNat < _ by omega
  · have := hbelow e he
    omega

theorem storedOk_decodeByteEvent {c : Config} {d : Decoder} (v : Byte) (hv : c.valid = true)
    (h : storedOk c d) : storedOk c (decodeByteEvent c v d) := by
  rcases decodeByteEvent_cases c v d with ⟨-, heq⟩ | ⟨-, -, heq⟩ | ⟨-, hroom, heq⟩ <;> rw [heq]
  · exact h
  · exact h
  · obtain ⟨hbuf, hlen, -⟩ := afterAppend_buffer d.ds v (appendByte v d)
    exact (storedOk_appendByte v hv h hroom).congr hbuf hlen

theorem sound_runDecoder {s : State} (v : Byte) (h : Sound s) : Sound (runDecoder v s) :=
  sound_setDec h (storedOk_decodeByteEvent v h.accepted h.buffer)

/-- A row of the table, whose own pseudocode leaves the buffer alone (44 R190, R192). -/
theorem decoderRow_sound {st : DState} {v : Byte} {body : Decoder → Decoder} {s t : State}
    (ht : decoderRow st v body s = .next t) (h : Sound s)
    (hbody : ∀ d, (body d).msgbuf = d.msgbuf ∧ (body d).msglen = d.msglen) : Sound t := by
  rcases decoderRow_cases ht with ⟨-, -, hroom, rfl⟩ | rfl
  · obtain ⟨hbuf, hlen⟩ := hbody (appendByte v s.dec)
    exact sound_setDec h ((storedOk_appendByte v h.accepted h.buffer hroom).congr hbuf hlen)
  · exact h

/-- The rows whose pseudocode is `afterAppend`'s for their state and byte (44 R190). -/
theorem afterAppend_keeps_buffer (st : DState) (v : Byte) (d : Decoder) :
    (afterAppend st v d).msgbuf = d.msgbuf ∧ (afterAppend st v d).msglen = d.msglen :=
  let ⟨hbuf, hlen, _⟩ := afterAppend_buffer st v d
  ⟨hbuf, hlen⟩

/-! ## The framer keeps the invariant (43 R170 to R176) -/

theorem sound_runFrStartOk {s : State} (h : Sound s) : Sound (runFrStartOk s) := by
  obtain ⟨-, -, hns, -⟩ := h.counters
  exact sound_setFrm h ⟨by simp, by simp, hns, by simp⟩

/-- Both ways back to `FS_IDLE` within a frame (43 R172, R176). -/
theorem sound_setFrm_idle {s : State} (h : Sound s) : Sound (s.setFrm { s.frm with fs := .idle }) := by
  obtain ⟨hnb, -, hns, -⟩ := h.counters
  exact sound_setFrm h ⟨hnb, by simp, hns, by simp⟩

theorem sound_runFrData {s : State} (b : Bool) (h : Sound s) (hfs : s.frm.fs = .data) :
    Sound (runFrData b s) := by
  obtain ⟨-, hnb, hns, -⟩ := h.counters
  have hlt := hnb hfs
  have hnstop := NSTOP_cases h.accepted
  have hcount : (s.frm.nb + 1).toNat = s.frm.nb.toNat + 1 := BitVec.toNat_add_of_lt (by simp; omega)
  unfold runFrData
  split
  case isTrue hlast =>
    exact sound_setFrm h ⟨by simp only [State.setFrm_frm, hlast]; decide, by simp, by simp, fun _ => by simp; omega⟩
  case isFalse hmore =>
    have hne : (s.frm.nb + 1).toNat ≠ 8 := fun he => hmore (BitVec.eq_of_toNat_eq he)
    exact sound_setFrm h ⟨by simp only [State.setFrm_frm]; omega, fun _ => by simp only [State.setFrm_frm]; omega,
      hns, by simp [hfs]⟩

theorem sound_runFrStopOk {s : State} (h : Sound s) (hfs : s.frm.fs = .stop) : Sound (runFrStopOk s) := by
  obtain ⟨hnb, -, -, hns⟩ := h.counters
  have hlt := hns hfs
  have hnstop := NSTOP_cases h.accepted
  have hcount : (s.frm.ns + 1).toNat = s.frm.ns.toNat + 1 := BitVec.toNat_add_of_lt (by simp; omega)
  unfold runFrStopOk
  split
  case isTrue hlast =>
    exact sound_runDecoder _ (sound_setTrace _ (sound_setFrm h ⟨hnb, by simp, hlast.le, by simp⟩))
  case isFalse hmore =>
    exact sound_setFrm h ⟨hnb, by simp [hfs], by simp only [State.setFrm_frm, State.setFrm_cfg]; omega,
      fun _ => by simp only [State.setFrm_frm, State.setFrm_cfg]; omega⟩

theorem sound_runFramer {s : State} (b : Bool) (h : Sound s) : Sound (runFramer b s) := by
  unfold runFramer
  cases hfs : s.frm.fs <;> simp only
  case idle => exact h
  case start => cases b <;> [exact sound_runFrStartOk h; exact sound_setFrm_idle h]
  case data => exact sound_runFrData b h hfs
  case stop => cases b <;> [exact sound_setFrm_idle h; exact sound_runFrStopOk h hfs]

/-- One bit cell of a line frame (log 6). -/
theorem sound_lineBit {s : State} (prev b : Bool) (h : Sound s) : Sound (lineBit prev b s) := by
  unfold lineBit
  split
  case isTrue => exact h
  split
  case isTrue =>
    split
    case isTrue =>
      obtain ⟨hnb, -, hns, -⟩ := h.counters
      exact sound_runFramer b (sound_setFrm h ⟨hnb, by simp, hns, by simp⟩)
    case isFalse => exact h
  case isFalse => exact sound_runFramer b h

theorem sound_lineBits {s : State} (prev : Bool) (bs : List Bool) (h : Sound s) : Sound (lineBits prev bs s) := by
  induction bs generalizing prev s with
  | nil => exact h
  | cons b bs ih => exact ih b (sound_lineBit prev b h)

/-! ## POP keeps the invariant (40 R113) -/

theorem sound_runClock {s : State} (h : Sound s) : Sound (runClock s) := by
  unfold runClock
  split
  · exact sound_runFramer _ (sound_runPllLatch (sound_runPllAdv h))
  · exact sound_runPllAdv h

theorem sound_runTiming {s : State} (h : Sound s) : Sound (runTiming s) := by
  unfold runTiming
  split
  · split
    · exact sound_runClock (sound_runPllSnap h)
    · exact h
  · split
    · exact sound_runClock (sound_runPllNudge h)
    · exact sound_runClock h

theorem sound_runSample {s : State} (x : Sample) (h : Sound s) : Sound (runSample x s) :=
  sound_runHistShift (sound_runDiscStep x h) (sound_runDiscStep x h).output

theorem runPop_nil {s : State} (hfifo : s.inp.fifo = []) : runPop s = s := by
  simp only [runPop, hfifo]

/-- POP is its parts, one after another, on the sample at the head of the FIFO (40 R113). -/
theorem runPop_cons {s : State} {x : Sample} {rest : List Sample} (hfifo : s.inp.fifo = x :: rest) :
    runPop s = closePop (runTiming (runSample x (takeSample rest s))) := by
  simp only [runPop, hfifo]

theorem sound_runPop {s : State} (h : Sound s) : Sound (runPop s) := by
  cases hfifo : s.inp.fifo with
  | nil => rwa [runPop_nil hfifo]
  | cons x rest =>
    rw [runPop_cons hfifo]
    have hlen := h.fifo
    rw [hfifo, List.length_cons] at hlen
    have htake : Sound (takeSample rest s) := sound_quiet (sound_setInp h (by simp only; omega))
    have htiming := sound_runTiming (sound_runSample x htake)
    exact sound_setInp htiming htiming.fifo

/-! ## The host's operations keep the invariant (40 R111, R118) -/

theorem linesOk_resetOf (c : Config) : linesOk (State.resetOf c) := by
  intro hr
  obtain ⟨r, h⟩ := (isRef_iff c).1 hr
  simp [State.resetOf, resetDisc, h]

theorem mem_resetDisc_dl {c : Config} {d : Int} (hd : d ∈ (resetDisc c).dl) : d = 0 := by
  unfold resetDisc at hd
  split at hd
  · exact (List.mem_replicate.1 hd).2
  · cases hd
  · cases hd

theorem widthsOk_resetOf (c : Config) : widthsOk (State.resetOf c) := by
  have h0 := fitsWidth_zero c.YW
  have hd0 : differenceOk 0 := by unfold differenceOk; omega
  have he0 : energyOk 0 := by unfold energyOk; omega
  exact fun _ => ⟨h0, h0, h0, h0, fun _ => ⟨fun d hd => mem_resetDisc_dl hd ▸ hd0, he0, he0, hd0⟩⟩

/-- The reset state of an accepted configuration (10_state.md R49). -/
theorem sound_resetOf {c : Config} (hv : c.valid = true) : Sound (State.resetOf c) where
  accepted := hv
  fifo := Nat.zero_le _
  rounding := PLL_ROUND_PERIOD_pos hv
  lines := linesOk_resetOf c
  widths := widthsOk_resetOf c
  counters := by simp [countersOk, State.resetOf, resetFramer]
  buffer := ⟨Nat.zero_le _, Memory.wf_nil, by simp [State.resetOf, resetDecoder]⟩

theorem sound_newSession {s : State} (h : Sound s) : Sound (newSession s) :=
  sound_setPending s.pending (sound_setHost s.host (sound_resetOf h.accepted))

theorem execPush_sound {x : Sample} {s t : State} (ht : execPush x s = .next t) (h : Sound s) : Sound t := by
  refine next_keeps ht (sound_quiet (sound_setHost _ ?_))
  split
  case isTrue hroom =>
    have hlt := (sReady_iff s).1 hroom
    exact sound_setInp h (by simp only [List.length_append, List.length_singleton]; omega)
  case isFalse => exact h

/-! ## Every operation, and every step -/

theorem exec_sound {i : Instr} {s t : State} (ht : exec i s = .next t) (h : Sound s) : Sound t := by
  cases i with
  | frame v => exact next_keeps ht (sound_lineBits true _ (sound_quiet h))
  | start => exact next_keeps ht (sound_newSession h)
  | push x => exact execPush_sound ht h
  | rdst => exact next_keeps ht (sound_quiet (sound_setHost _ h))
  | rdmb a => exact next_keeps ht (sound_quiet (sound_setHost _ h))
  | pop => exact performIf_keeps ht (fun _ => sound_runPop h) (sound_quiet h)
  | discStep x => exact next_keeps ht (sound_runDiscStep x h)
  | mfMark => exact performIf_keeps ht (fun _ => sound_runMfMark h) h
  | mfSpace => exact performIf_keeps ht (fun _ => sound_runMfSpace h) h
  | diff => exact performIf_keeps ht (fun _ => sound_runDiff h) h
  | postf => exact performIf_keeps ht (sound_runPostf h) h
  | histShift y => exact next_keeps ht (sound_runHistShift h fun _ => sext_fitsWidth _ (YW_pos h.accepted))
  | pllHold => exact next_keeps ht h
  | pllSnap => exact performIf_keeps ht (fun _ => sound_runPllSnap h) h
  | pllNudge => exact performIf_keeps ht (fun _ => sound_runPllNudge h) h
  | pllAdv => exact performIf_keeps ht (fun _ => sound_runPllAdv h) h
  | pllLatch => exact performIf_keeps ht (fun _ => sound_runPllLatch h) h
  | pllRound => exact next_keeps ht (sound_runPllRound h)
  | frStartOk => exact performIf_keeps ht (fun _ => sound_runFrStartOk h) h
  | frStartFalse => exact performIf_keeps ht (fun _ => sound_setFrm_idle h) h
  | frData b => exact performIf_keeps ht (fun hfs => sound_runFrData b h (beq_iff_eq.1 hfs)) h
  | frStopOk => exact performIf_keeps ht (fun hfs => sound_runFrStopOk h (beq_iff_eq.1 hfs)) h
  | frStopBad => exact performIf_keeps ht (fun _ => sound_setFrm_idle h) h
  | ovf v => exact performIf_keeps ht (fun _ => sound_setDec h h.buffer) h
  | append v =>
    refine performIf_keeps ht (fun hsel => ?_) h
    simp only [Bool.and_eq_true, Bool.not_eq_true', bufferFull, decide_eq_false_iff_not] at hsel
    exact sound_setDec h (storedOk_appendByte v h.accepted h.buffer hsel.2)
  | mtMdmf => exact decoderRow_sound ht h (afterAppend_keeps_buffer .mt 0x80)
  | mtSdmf => exact decoderRow_sound ht h (afterAppend_keeps_buffer .mt 0x04)
  | mtOther v => exact decoderRow_sound ht h fun _ => ⟨rfl, rfl⟩
  | mlAny v => exact decoderRow_sound ht h (afterAppend_keeps_buffer .ml v)
  | dtDate => exact decoderRow_sound ht h (afterAppend_keeps_buffer .dt 0x01)
  | dtNumber => exact decoderRow_sound ht h (afterAppend_keeps_buffer .dt 0x02)
  | dtNonumber => exact decoderRow_sound ht h (afterAppend_keeps_buffer .dt 0x04)
  | dtName => exact decoderRow_sound ht h (afterAppend_keeps_buffer .dt 0x07)
  | dtNoname => exact decoderRow_sound ht h (afterAppend_keeps_buffer .dt 0x08)
  | dtOther v => exact decoderRow_sound ht h fun _ => ⟨rfl, rfl⟩
  | dlAny v => exact decoderRow_sound ht h (afterAppend_keeps_buffer .dl v)
  | dataAny v => exact decoderRow_sound ht h (afterAppend_keeps_buffer .data v)
  | ckAny v => exact decoderRow_sound ht h (afterAppend_keeps_buffer .ck v)
  | extract => exact next_keeps ht (sound_quiet (sound_setHost _ h))

theorem step_sound {s t : State} (ht : step s = .next t) (h : Sound s) : Sound t := by
  obtain ⟨-, ⟨w, rest, i, -, -, hexec⟩ | ⟨-, -, hexec⟩ | ⟨-, -, rfl⟩⟩ := step_cases ht
  · exact exec_sound hexec (sound_setPending rest h)
  · exact exec_sound hexec h
  · exact sound_quiet h

/-- Settles O10: a step performs an operation on an accepted configuration only, and every operation keeps the
invariant there. -/
theorem everyStepKeepsTheStructure : Obligations.EveryStepKeepsTheStructure := by
  intro s t h ht
  have haccepted := (step_cases ht).1
  exact ((sound_iff t).1 (step_sound ht ((sound_iff s).2 ⟨haccepted, h⟩))).2

end Sys2Proof.Invariants
end

section
/-! PROOFS. The block's invariant (10_state.md R27, R48; 44 R207, R212; 60 R246): the reset state meets it and every
operation of an agent keeps it. Of these only POP does more than to hand a value on: it moves the PLL's phase, and it
gives the decoder at most one byte. -/

namespace Sys2Proof.Invariants
open Sys2Proof Sys2Proof.Machine Sys2Proof.Scope

/-! ## The decoder's invariants (10_state.md R38, R48; 44 R206, R207, R212) -/

/-- The decoder's part of the block's invariant. -/
structure DecoderOk (d : Decoder) : Prop where
  checksum : checksumOk d
  position : positionOk d
  format : formatOk d
  count : countOk d
  completion : completionOk d

/-- The format is known once the type byte has been taken and was not unknown (10_state.md R48 item 5). -/
theorem DecoderOk.fmt_ne_none {d : Decoder} (h : DecoderOk d) (hmt : d.ds ≠ .mt) (hunknown : d.ds ≠ .unknown) :
    d.fmt ≠ .none := by
  intro hfmt
  rcases h.format.1 hfmt with hds | ⟨hds, -⟩
  · exact hmt hds
  · exact hunknown hds

/-- While no checksum byte has been judged `cks` sums every byte stored (10_state.md R48 item 2). -/
theorem DecoderOk.cks_eq {d : Decoder} (h : DecoderOk d) (hlive : terminal d.ds = false) :
    d.cks = byteSum d.msgbuf d.msglen.toNat := by
  have hjudged : judged d.ds = false := by
    rcases (terminal_eq_false_iff _).1 hlive with hds | hds | hds | hds | hds | hds <;> rw [hds] <;> rfl
  have hsum := h.checksum
  rwa [checksumOk, hjudged, if_neg Bool.false_ne_true] at hsum

/-- Past the length byte at least two bytes have been taken (44 R212). -/
theorem DecoderOk.two_le_msglen {d : Decoder} (h : DecoderOk d) (hmt : d.ds ≠ .mt) (hml : d.ds ≠ .ml)
    (hunknown : d.ds ≠ .unknown) : 2 ≤ d.msglen.toNat := by
  obtain ⟨-, -, -, htwo⟩ := h.position
  exact htwo hmt hml hunknown

/-- The decoder of a new session (10_state.md R49). -/
theorem decoderOk_resetDecoder : DecoderOk resetDecoder := by
  constructor
  · unfold checksumOk; decide
  · unfold positionOk; decide
  · unfold formatOk; decide
  · unfold countOk; decide
  · unfold completionOk; decide

/-- A state past the length byte, or an outcome, with no checksum byte judged. -/
theorem decoderOk_of_format_known {d : Decoder} (hmt : d.ds ≠ .mt) (hml : d.ds ≠ .ml) (hjudged : judged d.ds = false)
    (hlen : 2 ≤ d.msglen.toNat) (hfmt : d.fmt ≠ .none) (hsum : d.cks = byteSum d.msgbuf d.msglen.toNat)
    (hcount : countOk d) (hdone : d.ds = .ck → messageDone d = true) : DecoderOk d where
  checksum := by rwa [checksumOk, hjudged, if_neg Bool.false_ne_true]
  position := ⟨fun h => absurd h hmt, fun h => absurd h hml, fun _ _ => by omega, fun _ _ _ => hlen⟩
  format := by
    refine ⟨fun h => absurd h hfmt, ?_⟩
    rintro (h | ⟨-, h⟩)
    · exact absurd h hmt
    · omega
  count := hcount
  completion := by
    rintro (h | h)
    · exact hdone h
    · simp [hjudged] at h

/-! ## What each state makes of a byte (44 R194) -/

/-- `DS_MT`: a known type byte sets the format, another ends the message (44 R195 to R197). -/
theorem afterAppend_mt (v : Byte) (d : Decoder) :
    ((afterAppend .mt v d).ds = .ml ∧ (afterAppend .mt v d).fmt ≠ .none) ∨
    ((afterAppend .mt v d).ds = .unknown ∧ (afterAppend .mt v d).fmt = d.fmt) := by
  simp only [afterAppend]
  split
  · exact .inl ⟨rfl, by simp [markMdmf]⟩
  split
  · exact .inl ⟨rfl, by simp [markSdmf]⟩
  · exact .inr ⟨rfl, rfl⟩

/-- `DS_DT`: a known data type opens a field, another ends the message (44 R199 to R204). -/
theorem afterAppend_dt (v : Byte) (d : Decoder) :
    ((afterAppend .dt v d).ds = .dl ∨ (afterAppend .dt v d).ds = .unknown) ∧
    (afterAppend .dt v d).fmt = d.fmt := by
  simp only [afterAppend]
  iterate 5
    split
    · exact ⟨.inl rfl, rfl⟩
  exact ⟨.inr rfl, rfl⟩

/-- FIELDDONE goes to `DS_CK` only when the completion test holds (44 R206). -/
theorem fieldDone_cases (d : Decoder) :
    (fieldDone d).ds = .dt ∨ ((fieldDone d).ds = .ck ∧ messageDone (fieldDone d) = true) := by
  by_cases hdone : messageDone d = true
  · exact .inr ⟨by simp [fieldDone, hdone], hdone⟩
  · exact .inl (by simp [fieldDone, hdone])

/-- What a byte of a field leaves: the next group, the checksum byte, or a field that goes on (44 R205 to R207). -/
def FieldNext (d : Decoder) : Prop :=
  d.ds = .dt ∨ (d.ds = .ck ∧ messageDone d = true) ∨ (d.ds = .data ∧ d.cnt ≠ 0)

theorem fieldNext_fieldDone (d : Decoder) : FieldNext (fieldDone d) :=
  (fieldDone_cases d).imp_right .inl

/-- `DS_DL` (44 R205). -/
theorem afterAppend_dl (v : Byte) (d : Decoder) :
    FieldNext (afterAppend .dl v d) ∧ (afterAppend .dl v d).fmt = d.fmt := by
  simp only [afterAppend, fieldLength]
  split
  case isTrue => exact ⟨fieldNext_fieldDone _, rfl⟩
  case isFalse hv => exact ⟨.inr (.inr ⟨rfl, hv⟩), rfl⟩

/-- `DS_DATA` (44 R207). -/
theorem afterAppend_data (v : Byte) {d : Decoder} (hds : d.ds = .data) :
    FieldNext (afterAppend .data v d) ∧ (afterAppend .data v d).fmt = d.fmt := by
  simp only [afterAppend, countData]
  split
  case isTrue => exact ⟨fieldNext_fieldDone _, rfl⟩
  case isFalse hcnt => exact ⟨.inr (.inr ⟨hds, hcnt⟩), rfl⟩

/-- `DS_CK`: the checksum byte is judged (44 R209). -/
theorem afterAppend_ck (v : Byte) (d : Decoder) :
    ((afterAppend .ck v d).ds = .complete ∨ (afterAppend .ck v d).ds = .ckfail) ∧
    (afterAppend .ck v d).fmt = d.fmt ∧ messageDone (afterAppend .ck v d) = messageDone d := by
  simp only [afterAppend, judge]
  split
  · exact ⟨.inl rfl, rfl, rfl⟩
  · exact ⟨.inr rfl, rfl, rfl⟩

/-! ## A byte keeps the decoder's invariants (44 R190) -/

section Row
variable {c : Config} {d : Decoder} (v : Byte) (hv : c.valid = true) (hstored : storedOk c d) (h : DecoderOk d)
  (hroom : d.msglen.toNat ≠ c.MSG_MAX)

include hv hstored hroom in
/-- Every row counts its byte (44 R192). -/
theorem row_msglen (st : DState) :
    (afterAppend st v (appendByte v d)).msglen.toNat = d.msglen.toNat + 1 := by
  obtain ⟨-, hlen, -⟩ := afterAppend_buffer st v (appendByte v d)
  rw [hlen, appendByte_msglen_toNat v hv hstored hroom]

include hv hstored h hroom in
/-- Every row but the checksum byte's sums its byte (44 R192). -/
theorem row_cks (st : DState) (hlive : terminal d.ds = false) (hck : d.ds ≠ .ck) :
    (afterAppend st v (appendByte v d)).cks =
      byteSum (afterAppend st v (appendByte v d)).msgbuf (afterAppend st v (appendByte v d)).msglen.toNat := by
  obtain ⟨hbuf, -, hcks⟩ := afterAppend_buffer st v (appendByte v d)
  rw [row_msglen v hv hstored hroom, hbuf, hcks, appendByte_cks hck, appendByte_msgbuf,
    byteSum_append _ _ hstored.canonical, h.cks_eq hlive]

include hv hstored h hroom in
/-- The checksum byte is stored behind the bytes summed, and not summed (44 R192). -/
theorem row_cks_ck (hck : d.ds = .ck) :
    (afterAppend .ck v (appendByte v d)).cks =
      byteSum (afterAppend .ck v (appendByte v d)).msgbuf
        ((afterAppend .ck v (appendByte v d)).msglen.toNat - 1) := by
  obtain ⟨hbuf, -, hcks⟩ := afterAppend_buffer .ck v (appendByte v d)
  rw [row_msglen v hv hstored hroom, Nat.add_sub_cancel, hbuf, hcks, appendByte_cks_ck hck, appendByte_msgbuf,
    byteSum_write v (Nat.le_refl _), h.cks_eq (by rw [hck]; rfl)]

include hv hstored h hroom in
theorem decoderOk_row_mt (hds : d.ds = .mt) : DecoderOk (afterAppend .mt v (appendByte v d)) := by
  have hlen := row_msglen v hv hstored hroom .mt
  obtain ⟨hzero, -, -, -⟩ := h.position
  rw [hzero hds] at hlen
  have hsum := row_cks v hv hstored h hroom .mt (by rw [hds]; rfl) (by simp [hds])
  rcases afterAppend_mt v (appendByte v d) with ⟨hnext, hfmt⟩ | ⟨hnext, hfmt⟩
  · exact {
      checksum := by simpa [checksumOk, hnext, judged] using hsum
      position := by simp [positionOk, hnext, hlen]
      format := by simp [formatOk, hnext, hfmt]
      count := by simp [countOk, hnext]
      completion := by simp [completionOk, hnext, judged] }
  · have hnone : d.fmt = .none := h.format.2 (.inl hds)
    exact {
      checksum := by simpa [checksumOk, hnext, judged] using hsum
      position := by simp [positionOk, hnext, hlen]
      format := by simp [formatOk, hnext, hlen, hfmt, hnone]
      count := by simp [countOk, hnext]
      completion := by simp [completionOk, hnext, judged] }

include hv hstored h hroom in
theorem decoderOk_row_ml (hds : d.ds = .ml) : DecoderOk (afterAppend .ml v (appendByte v d)) := by
  have hlen := row_msglen v hv hstored hroom .ml
  obtain ⟨-, hone, -, -⟩ := h.position
  rw [hone hds] at hlen
  have hnext : (afterAppend .ml v (appendByte v d)).ds = .dt := rfl
  exact decoderOk_of_format_known (by simp [hnext]) (by simp [hnext]) (by simp [hnext, judged]) hlen.ge
    (h.fmt_ne_none (by simp [hds]) (by simp [hds]))
    (row_cks v hv hstored h hroom .ml (by rw [hds]; rfl) (by simp [hds]))
    (by simp [countOk, hnext]) (by simp [hnext])

include hv hstored h hroom in
theorem decoderOk_row_dt (hds : d.ds = .dt) : DecoderOk (afterAppend .dt v (appendByte v d)) := by
  have hlen := row_msglen v hv hstored hroom .dt
  have htwo : 2 ≤ d.msglen.toNat := h.two_le_msglen (by simp [hds]) (by simp [hds]) (by simp [hds])
  have hsum := row_cks v hv hstored h hroom .dt (by rw [hds]; rfl) (by simp [hds])
  obtain ⟨hnext, hfmt⟩ := afterAppend_dt v (appendByte v d)
  have hknown : (afterAppend .dt v (appendByte v d)).fmt ≠ .none :=
    hfmt ▸ h.fmt_ne_none (by simp [hds]) (by simp [hds])
  rcases hnext with hnext | hnext <;>
    exact decoderOk_of_format_known (by simp [hnext]) (by simp [hnext]) (by simp [hnext, judged]) (by omega)
      hknown hsum (by simp [countOk, hnext]) (by simp [hnext])

include hv hstored h hroom in
/-- Both rows within a field (44 R205, R207). -/
theorem decoderOk_row_field {st : DState} (hds : d.ds = st) (hst : st = .dl ∨ st = .data)
    (hnext : FieldNext (afterAppend st v (appendByte v d)))
    (hfmt : (afterAppend st v (appendByte v d)).fmt = d.fmt) : DecoderOk (afterAppend st v (appendByte v d)) := by
  have hlen := row_msglen v hv hstored hroom st
  have hlive : terminal d.ds = false ∧ d.ds ≠ .mt ∧ d.ds ≠ .ml ∧ d.ds ≠ .ck ∧ d.ds ≠ .unknown := by
    rcases hst with rfl | rfl <;> rw [hds] <;> decide
  obtain ⟨hlive, hmt, hml, hck, hunknown⟩ := hlive
  have htwo : 2 ≤ d.msglen.toNat := h.two_le_msglen hmt hml hunknown
  have hsum := row_cks v hv hstored h hroom st hlive hck
  have hknown : (afterAppend st v (appendByte v d)).fmt ≠ .none := hfmt ▸ h.fmt_ne_none hmt hunknown
  rcases hnext with hnext | ⟨hnext, hdone⟩ | ⟨hnext, hcnt⟩ <;>
    exact decoderOk_of_format_known (by simp [hnext]) (by simp [hnext]) (by simp [hnext, judged]) (by omega)
      hknown hsum (by simp_all [countOk]) (by simp_all)

include hv hstored h hroom in
theorem decoderOk_row_ck (hds : d.ds = .ck) : DecoderOk (afterAppend .ck v (appendByte v d)) := by
  have hlen := row_msglen v hv hstored hroom .ck
  have hsum := row_cks_ck v hv hstored h hroom hds
  have hone : 1 ≤ (afterAppend .ck v (appendByte v d)).msglen.toNat := by omega
  have htwo : 2 ≤ d.msglen.toNat := h.two_le_msglen (by simp [hds]) (by simp [hds]) (by simp [hds])
  obtain ⟨hnext, hfmt, hdone⟩ := afterAppend_ck v (appendByte v d)
  have hknown : (afterAppend .ck v (appendByte v d)).fmt ≠ .none :=
    hfmt ▸ h.fmt_ne_none (by simp [hds]) (by simp [hds])
  have hcomplete : messageDone (afterAppend .ck v (appendByte v d)) = true :=
    hdone.trans (h.completion (.inl hds))
  rcases hnext with hnext | hnext <;> exact {
    checksum := by simpa [checksumOk, hnext, judged] using ⟨hone, hsum⟩
    position := by simp [positionOk, hnext]; omega
    format := by simp [formatOk, hnext, hknown]
    count := by simp [countOk, hnext]
    completion := fun _ => hcomplete }

include hv h in
/-- OVF: the buffer is full, so its message has a known format and at least three bytes (44 R193). -/
theorem decoderOk_ovfRaise (hlive : terminal d.ds = false) (hfull : d.msglen.toNat = c.MSG_MAX) :
    DecoderOk (ovfRaise d) := by
  have hmax := (MSG_MAX_bounds hv).1
  have hmt : d.ds ≠ .mt := fun hds => by have := h.position.1 hds; omega
  have hunknown : d.ds ≠ .unknown := fun hds => by simp [hds, terminal] at hlive
  have hnext : (ovfRaise d).ds = .malformed := rfl
  exact decoderOk_of_format_known (by simp [hnext]) (by simp [hnext]) (by simp [hnext, judged])
    (show 2 ≤ d.msglen.toNat by omega) (h.fmt_ne_none hmt hunknown) (h.cks_eq hlive)
    (by simp [countOk, hnext]) (by simp [hnext])

include hv hstored h in
theorem decoderOk_decodeByteEvent : DecoderOk (decodeByteEvent c v d) := by
  rcases decodeByteEvent_cases c v d with ⟨-, heq⟩ | ⟨hlive, hfull, heq⟩ | ⟨hlive, hroom, heq⟩ <;> rw [heq]
  · exact h
  · exact decoderOk_ovfRaise hv h hlive hfull
  · rcases (terminal_eq_false_iff _).1 hlive with hds | hds | hds | hds | hds | hds <;> rw [hds]
    · exact decoderOk_row_mt v hv hstored h hroom hds
    · exact decoderOk_row_ml v hv hstored h hroom hds
    · exact decoderOk_row_dt v hv hstored h hroom hds
    · obtain ⟨hnext, hfmt⟩ := afterAppend_dl v (appendByte v d)
      exact decoderOk_row_field v hv hstored h hroom hds (.inl rfl) hnext hfmt
    · obtain ⟨hnext, hfmt⟩ := afterAppend_data v (d := appendByte v d) hds
      exact decoderOk_row_field v hv hstored h hroom hds (.inr rfl) hnext hfmt
    · exact decoderOk_row_ck v hv hstored h hroom hds

end Row

/-! ## What a POP can do to the decoder (40 R113, 43 R175) -/

/-- The decoder takes nothing, or one byte with which the framer has become idle. -/
def ByteTaken (s t : State) : Prop :=
  t.dec = s.dec ∨ (t.frm.fs = .idle ∧ ∃ v, t.dec = decodeByteEvent s.cfg v s.dec)

theorem runFrStopOk_byteTaken (s : State) : ByteTaken s (runFrStopOk s) := by
  unfold runFrStopOk
  split
  · exact .inr ⟨rfl, s.frm.sr, rfl⟩
  · exact .inl rfl

theorem runFramer_byteTaken (b : Bool) (s : State) : ByteTaken s (runFramer b s) := by
  unfold runFramer
  cases s.frm.fs <;> simp only
  case idle => exact .inl rfl
  case start => cases b <;> exact .inl rfl
  case data => unfold runFrData; split <;> exact .inl rfl
  case stop => cases b <;> [exact .inl rfl; exact runFrStopOk_byteTaken s]

theorem runClock_byteTaken (s : State) : ByteTaken s (runClock s) := by
  unfold runClock
  split
  · exact runFramer_byteTaken _ (runPllLatch (runPllAdv s))
  · exact .inl rfl

theorem runTiming_byteTaken (s : State) : ByteTaken s (runTiming s) := by
  unfold runTiming
  split
  · split
    · exact runClock_byteTaken (runPllSnap s)
    · exact .inl rfl
  · split
    · exact runClock_byteTaken (runPllNudge s)
    · exact runClock_byteTaken s

/-- The parts of POP before the timing leave the parameters, the decoder and the phase alone (40 R113). -/
theorem runSample_takeSample_frame (x : Sample) (rest : List Sample) (s : State) :
    (runSample x (takeSample rest s)).cfg = s.cfg ∧ (runSample x (takeSample rest s)).dec = s.dec ∧
    (runSample x (takeSample rest s)).pll.icont = s.pll.icont := by
  obtain ⟨hcfg, -, hpll, -, hdec, -⟩ := runDiscStep_frame x (takeSample rest s)
  exact ⟨hcfg, hdec, (congrArg Pll.icont hpll :)⟩

theorem runPop_byteTaken (s : State) : ByteTaken s (runPop s) := by
  cases hfifo : s.inp.fifo with
  | nil => exact .inl (by rw [runPop_nil hfifo])
  | cons x rest =>
    obtain ⟨hcfg, hdec, -⟩ := runSample_takeSample_frame x rest s
    have htiming := runTiming_byteTaken (runSample x (takeSample rest s))
    rw [ByteTaken, hcfg, hdec] at htiming
    rw [runPop_cons hfifo]
    exact htiming

/-- A byte keeps the decoder's invariants in an accepted, sound state. -/
theorem ByteTaken.decoderOk {s t : State} (ht : ByteTaken s t) (hs : Sound s) (h : DecoderOk s.dec) :
    DecoderOk t.dec := by
  rcases ht with heq | ⟨-, v, heq⟩ <;> rw [heq]
  · exact h
  · exact decoderOk_decodeByteEvent v hs.accepted hs.buffer h

/-- An outcome comes with the byte that makes the framer idle (60_exceptions.md R246). -/
theorem ByteTaken.idle_of_terminal {s t : State} (ht : ByteTaken s t) (hlive : terminal s.dec.ds = false)
    (hterminal : terminal t.dec.ds = true) : t.frm.fs = .idle := by
  rcases ht with heq | ⟨hidle, -⟩
  · rw [heq, hlive] at hterminal
    cases hterminal
  · exact hidle

/-! ## The phase of the PLL (10_state.md R27) -/

/-- The bit centre lies inside a cycle, which is longer than the increment (00_scope.md R8, R10). -/
theorem phase_constants {c : Config} (hv : c.valid = true) :
    0 < c.PLLISPB2 ∧ c.PLLISPB2 ≤ c.PLLISPB ∧ c.PLLINC < c.PLLISPB := by
  obtain ⟨⟨-, hb, hfs, -⟩, -⟩ := (valid_iff c).1 hv
  have hispb := le_PLLISPB hb hfs
  unfold Config.PLLISPB2 Config.PLLINC
  omega

theorem phaseOk_of_icont_eq_zero {s : State} (hv : s.cfg.valid = true) (h : s.pll.icont = 0) : phaseOk s := by
  have hc := phase_constants hv
  unfold phaseOk
  omega

/-- A nudge moves the phase towards 0, and not past it (42 R155). -/
theorem runPllNudge_phaseOk {s : State} (hv : s.cfg.valid = true) (h : phaseOk s) : phaseOk (runPllNudge s) := by
  have hc := phase_constants hv
  have hclamp := clamp_eq s.pll.icont s.cfg.PLLIDS (Int.natCast_nonneg _)
  unfold phaseOk at h ⊢
  simp only [runPllNudge, State.setPll_cfg, State.setPll_pll, hclamp]
  omega

/-- PLL.LATCH takes one cycle and at most one unit more off the phase (42 R157, R158). -/
theorem runPllLatch_icont_bounds (s : State) :
    s.pll.icont - s.cfg.PLLISPB - 1 ≤ (runPllLatch s).pll.icont ∧
    (runPllLatch s).pll.icont ≤ s.pll.icont - s.cfg.PLLISPB := by
  obtain ⟨-, -, -, hlo, -⟩ := roundPll_frame s.cfg { s.pll with icont := s.pll.icont - s.cfg.PLLISPB }
  exact ⟨hlo, runPllLatch_icont_le s⟩

/-- The clock advances the phase and, past the bit centre, takes a cycle off it (42 R156, R157). -/
theorem runClock_phaseOk {s : State} (hv : s.cfg.valid = true) (h : phaseOk s) : phaseOk (runClock s) := by
  have hc := phase_constants hv
  have hadv : (runPllAdv s).pll.icont = s.pll.icont + s.cfg.PLLINC := rfl
  have hcfg : (runPllAdv s).cfg = s.cfg := rfl
  have hdue := latchDue_iff s.cfg (runPllAdv s).pll
  unfold phaseOk at h
  unfold runClock
  split
  case isTrue hlatch =>
    obtain ⟨hbcfg, -, -, hbpll, -⟩ := runFramer_frame (polarity s.pll.x0) (runPllLatch (runPllAdv s))
    have hb := runPllLatch_icont_bounds (runPllAdv s)
    have hge := hdue.1 hlatch
    rw [phaseOk, hbcfg, hbpll, runPllLatch_cfg, hcfg]
    rw [hcfg] at hb
    omega
  case isFalse hlatch =>
    have hlt := mt hdue.2 hlatch
    rw [phaseOk, hcfg]
    omega

theorem runTiming_phaseOk {s : State} (hv : s.cfg.valid = true) (h : phaseOk s) : phaseOk (runTiming s) := by
  unfold runTiming
  split
  · split
    · exact runClock_phaseOk (s := runPllSnap s) hv (phaseOk_of_icont_eq_zero hv rfl)
    · exact h
  · split
    · exact runClock_phaseOk (s := runPllNudge s) hv (runPllNudge_phaseOk hv h)
    · exact runClock_phaseOk hv h

theorem runPop_phaseOk {s : State} (hv : s.cfg.valid = true) (h : phaseOk s) : phaseOk (runPop s) := by
  cases hfifo : s.inp.fifo with
  | nil => rwa [runPop_nil hfifo]
  | cons x rest =>
    obtain ⟨hcfg, -, hicont⟩ := runSample_takeSample_frame x rest s
    have hsample : phaseOk (runSample x (takeSample rest s)) := by
      rw [phaseOk, hcfg, hicont]
      exact h
    rw [runPop_cons hfifo]
    exact runTiming_phaseOk (hcfg ▸ hv) hsample

/-! ## The block's invariant, its parts by name -/

/-- The block's invariant but for the pending operations, of a block whose configuration is accepted. -/
structure BlockSound (s : State) : Prop where
  sound : Sound s
  phase : phaseOk s
  decoder : DecoderOk s.dec
  frozen : frozenOk s

theorem blockSound_iff (s : State) : BlockSound s ∧ (∀ w ∈ s.pending, agentWord w = true) ↔
    s.cfg.valid = true ∧ BlockOk s := by
  constructor
  · intro ⟨h, hpending⟩
    obtain ⟨hv, hstructure⟩ := (sound_iff s).1 h.sound
    obtain ⟨hchecksum, hposition, hformat, hcount, hcompletion⟩ := h.decoder
    exact ⟨hv, hstructure, h.phase, hchecksum, hposition, hformat, hcount, hcompletion, h.frozen, hpending⟩
  · intro ⟨hv, hstructure, hphase, hchecksum, hposition, hformat, hcount, hcompletion, hfrozen, hpending⟩
    exact ⟨⟨(sound_iff s).2 ⟨hv, hstructure⟩, hphase, ⟨hchecksum, hposition, hformat, hcount, hcompletion⟩, hfrozen⟩,
      hpending⟩

/-! ## The agents' operations keep it -/

theorem blockSound_setPending {s : State} (v : List OpWord) (h : BlockSound s) : BlockSound (s.setPending v) :=
  { h with sound := sound_setPending v h.sound }

theorem blockSound_setHost {s : State} (v : HostView) (h : BlockSound s) : BlockSound (s.setHost v) :=
  { h with sound := sound_setHost v h.sound }

theorem blockSound_quiet {s : State} (h : BlockSound s) : BlockSound (quiet s) :=
  { h with sound := sound_quiet h.sound }

/-- The reset state of an accepted configuration (10_state.md R49). -/
theorem blockSound_resetOf {c : Config} (hv : c.valid = true) : BlockSound (State.resetOf c) where
  sound := sound_resetOf hv
  phase := phaseOk_of_icont_eq_zero hv rfl
  decoder := decoderOk_resetDecoder
  frozen := ⟨fun _ => rfl, fun _ => rfl⟩

theorem blockSound_newSession {s : State} (h : BlockSound s) : BlockSound (newSession s) :=
  blockSound_setPending s.pending (blockSound_setHost s.host (blockSound_resetOf h.sound.accepted))

theorem execPush_blockSound {x : Sample} {s t : State} (ht : execPush x s = .next t) (h : BlockSound s) :
    BlockSound t := by
  have hsound := execPush_sound ht h.sound
  cases ht
  by_cases hroom : sReady s = true
  · rw [if_pos hroom] at hsound ⊢
    exact { h with sound := hsound }
  · rw [if_neg hroom] at hsound ⊢
    exact { h with sound := hsound }

theorem popEnabled_live {s : State} (h : popEnabled s = true) : terminal s.dec.ds = false := by
  simp only [popEnabled, Bool.and_eq_true, Bool.not_eq_true'] at h
  exact h.1.1

theorem popEnabled_fifo_ne_nil {s : State} (h : popEnabled s = true) : s.inp.fifo ≠ [] := by
  intro hnil
  simp [popEnabled, occ, hnil] at h

/-- POP ends with `inv` clear when the framer is idle (40 R113, R114). -/
theorem runPop_inv_of_idle {s : State} (hfifo : s.inp.fifo ≠ []) (hidle : (runPop s).frm.fs = .idle) :
    (runPop s).inp.inv = false := by
  obtain ⟨x, rest, hcons⟩ := List.exists_cons_of_ne_nil hfifo
  rw [runPop_cons hcons] at hidle ⊢
  have hbefore : (runTiming (runSample x (takeSample rest s))).frm.fs = .idle := hidle
  simp [closePop, invAfter, hbefore]

theorem blockSound_runPop {s : State} (h : BlockSound s) (hen : popEnabled s = true) : BlockSound (runPop s) where
  sound := sound_runPop h.sound
  phase := runPop_phaseOk h.sound.accepted h.phase
  decoder := (runPop_byteTaken s).decoderOk h.sound h.decoder
  frozen := ⟨(runPop_byteTaken s).idle_of_terminal (popEnabled_live hen),
    runPop_inv_of_idle (popEnabled_fifo_ne_nil hen)⟩

theorem exec_blockSound {i : Instr} {s t : State} (hi : agentOp i = true) (ht : exec i s = .next t)
    (h : BlockSound s) : BlockSound t := by
  cases i
  case start => exact next_keeps ht (blockSound_newSession h)
  case push x => exact execPush_blockSound ht h
  case rdst => exact next_keeps ht (blockSound_quiet (blockSound_setHost _ h))
  case rdmb a => exact next_keeps ht (blockSound_quiet (blockSound_setHost _ h))
  case pop => exact performIf_keeps ht (blockSound_runPop h) (blockSound_quiet h)
  case extract => exact next_keeps ht (blockSound_quiet (blockSound_setHost _ h))
  all_goals cases hi

theorem agentOp_of_agentWord {w : OpWord} {i : Instr} (hw : agentWord w = true) (hd : decode w = .ok i) :
    agentOp i = true := by
  simpa [agentWord, hd] using hw

/-- Settles O11: the pending operations are the agents', and each of these keeps every part of the invariant. -/
theorem everyAgentStepKeepsTheBlockInvariant : Obligations.EveryAgentStepKeepsTheBlockInvariant := by
  intro s t h ht
  obtain ⟨hv, hcases⟩ := step_cases ht
  obtain ⟨hblock, hpending⟩ := (blockSound_iff s).2 ⟨hv, h⟩
  suffices hkept : BlockSound t ∧ ∀ w ∈ t.pending, agentWord w = true from ((blockSound_iff t).1 hkept).2
  rcases hcases with ⟨w, rest, i, hs, hd, hexec⟩ | ⟨hs, -, hexec⟩ | ⟨hs, -, rfl⟩
  · rw [hs, List.forall_mem_cons] at hpending
    obtain ⟨hw, hrest⟩ := hpending
    obtain ⟨-, hkeep⟩ := exec_sameBuild hexec
    exact ⟨exec_blockSound (agentOp_of_agentWord hw hd) hexec (blockSound_setPending rest hblock), hkeep ▸ hrest⟩
  · obtain ⟨-, hkeep⟩ := exec_sameBuild hexec
    exact ⟨exec_blockSound rfl hexec hblock, hkeep ▸ hpending⟩
  · exact ⟨blockSound_quiet hblock, hpending⟩

/-! ## The reset state -/

theorem blockOk_resetOf {c : Config} (hv : c.valid = true) : BlockOk (State.resetOf c) :=
  ((blockSound_iff _).1 ⟨blockSound_resetOf hv, List.forall_mem_nil _⟩).2

theorem reference_valid : Config.reference.valid = true := by decide

/-- Settles O7: `State.reset` is the reset state of the reference configuration, which is accepted. -/
theorem resetMeetsTheBlockInvariant : Obligations.ResetMeetsTheBlockInvariant :=
  ⟨fun _ hv => blockOk_resetOf hv, blockOk_resetOf reference_valid⟩

end Sys2Proof.Invariants
end

section
/-! PROOFS. Sessions and the status words (10_state.md R45, R46, R49, R50). -/

namespace Sys2Proof.SessionAndStatus
open Sys2Proof Sys2Proof.Machine

/-! ## Sessions (10_state.md R50) -/

/-- Settles O9: a new session is a function of the configuration but for the host's view and the pending
operations, of which the block's state holds nothing. -/
theorem noStateSurvivesStart : Obligations.NoStateSurvivesStart := by
  intro s s' t t' hcfg ht ht'
  have hdisc : (newSession s).disc = (newSession s').disc := by
    rw [newSession_disc, newSession_disc, hcfg]
  cases ht
  cases ht'
  exact ⟨rfl, hdisc, rfl, rfl, rfl, fun _ => rfl⟩

/-! ## The reset words -/

theorem popEnabled_resetOf (c : Config) : popEnabled (State.resetOf c) = false := by
  simp [popEnabled, occ, State.resetOf, resetInput]

theorem starved_resetOf (c : Config) : starved (State.resetOf c) = true := by
  rw [starved, popEnabled_resetOf]
  rfl

theorem fifoFull_resetOf {c : Config} (hv : c.valid = true) : fifoFull (State.resetOf c) = false := by
  obtain ⟨⟨-, -, -, -, hgate, hdepth, -⟩, -⟩ := (Scope.valid_iff c).1 hv
  have hocc : occ (State.resetOf c) = 0 := rfl
  have hcfg : (State.resetOf c).cfg = c := rfl
  rw [fifoFull, hocc, hcfg, decide_eq_false_iff_not]
  omega

theorem statusWord_resetOf {c : Config} (hv : c.valid = true) : statusWord (State.resetOf c) = 0x02000000 := by
  rw [statusWord, fifoFull_resetOf hv, starved_resetOf]
  simp only [State.resetOf, resetDecoder, resetInput, resetFramer]
  rfl

theorem status2Word_resetOf (c : Config) : status2Word (State.resetOf c) = 0 := by
  simp only [status2Word, State.resetOf, resetDecoder, resetFramer]
  rfl

/-! ## The fields

A field is found by leaving out the fields below it, each of them the lower part of a concatenation, and then those
above it. -/

/-- STATUS, its fields by the model's own functions (10_state.md R45). -/
theorem statusWord_fields (s : State) :
    (statusWord s).extractLsb' 0 1 = flagBit (terminal s.dec.ds) ∧
    (statusWord s).extractLsb' 1 3 = outcomeCode s.dec.ds ∧
    (statusWord s).extractLsb' 4 4 = dsCode s.dec.ds ∧
    (statusWord s).extractLsb' 8 2 = fsCode s.frm.fs ∧
    (statusWord s).extractLsb' 10 2 = fmtCode s.dec.fmt ∧
    (statusWord s).extractLsb' 12 1 = flagBit s.dec.nameseen ∧
    (statusWord s).extractLsb' 13 1 = flagBit s.dec.numseen ∧
    (statusWord s).extractLsb' 14 1 = flagBit s.dec.lenbad ∧
    (statusWord s).extractLsb' 15 1 = flagBit s.inp.inv ∧
    (statusWord s).extractLsb' 16 9 = s.dec.msglen ∧
    (statusWord s).extractLsb' 25 1 = flagBit (starved s) ∧
    (statusWord s).extractLsb' 26 1 = flagBit (fifoFull s) ∧
    (statusWord s).extractLsb' 27 5 = 0 := by
  unfold statusWord
  refine ⟨?_, ?_, ?_, ?_, ?_, ?_, ?_, ?_, ?_, ?_, ?_, ?_, ?_⟩
  all_goals
    repeat rw [extractLsb'_append_high _ _ _ _ (by decide)]
  case refine_13 => rfl
  all_goals
    rw [extractLsb'_append_low _ _ _ _ (by decide)]
    exact BitVec.extractLsb'_eq_self

/-- STATUS2 (10_state.md R46). -/
theorem status2Word_fields (s : State) :
    (status2Word s).extractLsb' 0 8 = s.dec.cks ∧ (status2Word s).extractLsb' 8 8 = s.dec.mlen ∧
    (status2Word s).extractLsb' 16 8 = s.dec.cnt ∧ (status2Word s).extractLsb' 24 4 = s.frm.nb ∧
    (status2Word s).extractLsb' 28 2 = s.frm.ns ∧ (status2Word s).extractLsb' 30 2 = 0 := by
  unfold status2Word
  refine ⟨?_, ?_, ?_, ?_, ?_, ?_⟩
  all_goals
    repeat rw [extractLsb'_append_high _ _ _ _ (by decide)]
  case refine_6 => rfl
  all_goals
    rw [extractLsb'_append_low _ _ _ _ (by decide)]
    exact BitVec.extractLsb'_eq_self

/-- Settles O18: the fields by the model's functions, each function's codes state by state. -/
theorem statusWordsHoldTheirFields : Obligations.StatusWordsHoldTheirFields := by
  refine ⟨fun c hv => ⟨statusWord_resetOf hv, status2Word_resetOf c⟩, fun s => ?_⟩
  obtain ⟨hdone, hout, hds, hfs, hfmt, hname, hnum, hlenbad, hinv, hmsglen, hstarved, hfull, hzero⟩ :=
    statusWord_fields s
  refine ⟨hdone, hout.trans ?_, hds.trans ?_, hfs.trans ?_, hfmt.trans ?_, hname, hnum, hlenbad, hinv, hmsglen,
    hstarved, hfull, hzero, status2Word_fields s⟩
  · cases s.dec.ds <;> rfl
  · cases s.dec.ds <;> rfl
  · cases s.frm.fs <;> rfl
  · cases s.dec.fmt <;> rfl

end Sys2Proof.SessionAndStatus
end

section
/-! PROOFS. The memory of the block and the order of its agents (20_memory.md R61, R68, R71, R74): where bytes are
stored, PUSH and POP in either order, the operation of a pending word, and the FIFO of a live session. -/

namespace Sys2Proof.MemoryOrder
open Sys2Proof Sys2Proof.Machine Sys2Proof.Scope Sys2Proof.Invariants

/-! ## A step with a pending operation (log 3) -/

theorem nextOp_of_decode_ok {s : State} {w : OpWord} {rest : List OpWord} {i : Instr}
    (hp : s.pending = w :: rest) (hd : decode w = .ok i) : nextOp s = .perform i rest := by
  simp [nextOp, hp, hd]

theorem step_perform {s : State} {i : Instr} {rest : List OpWord} (hv : s.cfg.valid = true)
    (hn : nextOp s = .perform i rest) : step s = exec i (s.setPending rest) := by
  simp [step, hv, hn]

/-- Settles O4. -/
theorem stepRunsTheDecodedOperation : Obligations.StepRunsTheDecodedOperation :=
  fun _ _ _ _ hv hp hd => step_perform hv (nextOp_of_decode_ok hp hd)

/-! ## The gate of POP (40 R112) -/

theorem popEnabled_iff (s : State) : popEnabled s = true ↔
    terminal s.dec.ds = false ∧ 1 ≤ s.inp.fifo.length ∧
      (s.inp.inv = true ∨ s.cfg.GATE_WINDOW ≤ s.inp.fifo.length) := by
  simp only [popEnabled, Bool.and_eq_true, Bool.or_eq_true, Bool.not_eq_true', decide_eq_true_eq, and_assoc]
  rfl

/-- A live core with a window waiting pops: a window is at least one sample (00_scope.md R7). -/
theorem popEnabled_of_window_le {s : State} (hv : s.cfg.valid = true) (hlive : terminal s.dec.ds = false)
    (hwindow : s.cfg.GATE_WINDOW ≤ s.inp.fifo.length) : popEnabled s = true := by
  obtain ⟨⟨-, -, -, -, hpos, -⟩, -⟩ := (valid_iff s.cfg).1 hv
  exact (popEnabled_iff s).2 ⟨hlive, hpos.trans hwindow, .inr hwindow⟩

/-- Settles O26: a full FIFO holds at least a window, as `GATE_WINDOW ≤ FIFO_DEPTH`. -/
theorem liveCoreDrainsAFullFifo : Obligations.LiveCoreDrainsAFullFifo := by
  intro s hv hlive
  obtain ⟨⟨-, -, -, -, -, hdepth, -⟩, -⟩ := (valid_iff s.cfg).1 hv
  refine ⟨fun hfull => popEnabled_of_window_le hv hlive (hfull ▸ hdepth), fun hquiescent => ?_⟩
  by_contra hwindow
  rw [popEnabled_of_window_le hv hlive (Nat.not_lt.1 hwindow)] at hquiescent
  cases hquiescent

/-! ## Operations that store nothing (R61) -/

/-- The message buffer and its length are the same. -/
def SameBuffer (s t : State) : Prop := t.dec.msgbuf = s.dec.msgbuf ∧ t.dec.msglen = s.dec.msglen

theorem SameBuffer.refl (s : State) : SameBuffer s s := ⟨rfl, rfl⟩

theorem sameBuffer_of_dec_eq {s t : State} (h : t.dec = s.dec) : SameBuffer s t := by
  rw [SameBuffer, h]
  exact ⟨rfl, rfl⟩

/-- RDMB's read looks at nothing else of the decoder (R62). -/
theorem SameBuffer.memRead_eq {s t : State} (h : SameBuffer s t) (a : Nat) : memRead t.dec a = memRead s.dec a := by
  obtain ⟨hbuf, hlen⟩ := h
  simp only [memRead, hbuf, hlen]

theorem SameBuffer.read_eq {s t : State} (h : SameBuffer s t) (a : Nat) :
    Memory.read t.dec.msgbuf a = Memory.read s.dec.msgbuf a := by
  rw [h.1]

theorem execPush_sameBuffer {x : Sample} {s t : State} (h : execPush x s = .next t) : SameBuffer s t := by
  refine next_keeps h ?_
  split <;> exact SameBuffer.refl s

theorem runFrData_sameBuffer (b : Bool) (s : State) : SameBuffer s (runFrData b s) := by
  unfold runFrData
  split <;> exact SameBuffer.refl s

theorem exec_sameBuffer {i : Instr} {s t : State} (hi : storesNothing i = true) (h : exec i s = .next t) :
    SameBuffer s t := by
  have hself := SameBuffer.refl s
  cases i
  case push x => exact execPush_sameBuffer h
  case discStep x =>
    obtain ⟨-, -, -, -, hdec, -⟩ := runDiscStep_frame x s
    exact next_keeps h (sameBuffer_of_dec_eq hdec)
  case frData b => exact performIf_keeps h (fun _ => runFrData_sameBuffer b s) hself
  case rdst | rdmb | extract | histShift | pllHold | pllRound => exact next_keeps h hself
  case mfMark | mfSpace | diff | postf | pllSnap | pllNudge | pllAdv | pllLatch | frStartOk | frStartFalse |
      frStopBad | ovf => exact performIf_keeps h (fun _ => hself) hself
  all_goals cases hi

/-! ## Operations that store a byte at `msglen` (R61, R68, 44 R192) -/

/-- Every byte but the one at `d`'s `msglen` is as before. -/
def StoredAtMsglen (d e : Decoder) : Prop :=
  ∀ a : Nat, a ≠ d.msglen.toNat → Memory.read e.msgbuf a = Memory.read d.msgbuf a

theorem StoredAtMsglen.refl (d : Decoder) : StoredAtMsglen d d := fun _ _ => rfl

theorem storedAtMsglen_appendByte (v : Byte) (d : Decoder) : StoredAtMsglen d (appendByte v d) :=
  fun _ ha => Memory.read_write_ne v ha

/-- What comes after APPEND and leaves the buffer alone stores nothing more. -/
theorem storedAtMsglen_of_msgbuf_eq {v : Byte} {d e : Decoder} (h : e.msgbuf = (appendByte v d).msgbuf) :
    StoredAtMsglen d e := by
  intro a ha
  rw [h]
  exact storedAtMsglen_appendByte v d a ha

/-- Nothing is stored after APPEND (44 R195 to R209). -/
theorem afterAppend_msgbuf (st : DState) (v : Byte) (d : Decoder) : (afterAppend st v d).msgbuf = d.msgbuf :=
  (afterAppend_keeps_buffer st v d).1

theorem storedAtMsglen_decodeByteEvent (c : Config) (v : Byte) (d : Decoder) :
    StoredAtMsglen d (decodeByteEvent c v d) := by
  rcases decodeByteEvent_cases c v d with ⟨-, heq⟩ | ⟨-, -, heq⟩ | ⟨-, -, heq⟩ <;> rw [heq]
  · exact StoredAtMsglen.refl d
  · exact StoredAtMsglen.refl d
  · exact storedAtMsglen_of_msgbuf_eq (afterAppend_msgbuf d.ds v _)

theorem storedAtMsglen_of_byteTaken {s t : State} (h : ByteTaken s t) : StoredAtMsglen s.dec t.dec := by
  rcases h with heq | ⟨-, v, heq⟩ <;> rw [heq]
  · exact StoredAtMsglen.refl s.dec
  · exact storedAtMsglen_decodeByteEvent s.cfg v s.dec

/-- A row of the table, whose own pseudocode leaves the buffer alone (44 R190, R192). -/
theorem decoderRow_storedAtMsglen {st : DState} {v : Byte} {body : Decoder → Decoder} {s t : State}
    (h : decoderRow st v body s = .next t) (hbody : ∀ d, (body d).msgbuf = d.msgbuf) :
    StoredAtMsglen s.dec t.dec := by
  rcases decoderRow_cases h with ⟨-, -, -, rfl⟩ | rfl
  · exact storedAtMsglen_of_msgbuf_eq (hbody (appendByte v s.dec))
  · exact StoredAtMsglen.refl _

theorem performIf_storedAtMsglen {c : Bool} {d : Decoder} {u s t : State} (h : performIf c u s = .next t)
    (hu : StoredAtMsglen d u.dec) (hs : StoredAtMsglen d s.dec) : StoredAtMsglen d t.dec :=
  performIf_keeps (P := fun r => StoredAtMsglen d r.dec) h (fun _ => hu) hs

theorem exec_storedAtMsglen {i : Instr} {s t : State} (hi : storesAtMsglen i = true) (h : exec i s = .next t) :
    StoredAtMsglen s.dec t.dec := by
  have hself := StoredAtMsglen.refl s.dec
  cases i
  case pop => exact performIf_storedAtMsglen h (storedAtMsglen_of_byteTaken (runPop_byteTaken s)) hself
  case frStopOk => exact performIf_storedAtMsglen h (storedAtMsglen_of_byteTaken (runFrStopOk_byteTaken s)) hself
  case append v => exact performIf_storedAtMsglen h (storedAtMsglen_appendByte v s.dec) hself
  case dlAny v => exact decoderRow_storedAtMsglen h (afterAppend_msgbuf .dl v)
  case dataAny v => exact decoderRow_storedAtMsglen h (afterAppend_msgbuf .data v)
  case ckAny v => exact decoderRow_storedAtMsglen h (afterAppend_msgbuf .ck v)
  case mtMdmf | mtSdmf | mtOther | mlAny | dtDate | dtNumber | dtNonumber | dtName | dtNoname | dtOther =>
    exact decoderRow_storedAtMsglen h fun _ => rfl
  all_goals cases hi

/-- Settles O14: a byte is stored by APPEND only, and what DECODER does after APPEND leaves the buffer alone. -/
theorem bytesAreStoredOnlyAtMsglen : Obligations.BytesAreStoredOnlyAtMsglen :=
  ⟨fun _ _ _ a hi h => ⟨(exec_sameBuffer hi h).memRead_eq a, (exec_sameBuffer hi h).read_eq a⟩,
    fun _ _ _ a hi h ha => exec_storedAtMsglen hi h a ha⟩

/-! ## The core's path ignores what PUSH writes (R71: no buffering between the agents but the FIFO) -/

/-- `s` with another input stage and another host's view, which are what PUSH writes. -/
def withHostSide (v : InputStage) (h : HostView) (s : State) : State := (s.setInp v).setHost h

@[simp] theorem withHostSide_cfg (v : InputStage) (h : HostView) (s : State) : (withHostSide v h s).cfg = s.cfg := rfl
@[simp] theorem withHostSide_frm (v : InputStage) (h : HostView) (s : State) : (withHostSide v h s).frm = s.frm := rfl

/-- A part of POP neither reads nor writes the input stage and the host's view. -/
def IgnoresHostSide (f : State → State) : Prop :=
  ∀ (v : InputStage) (h : HostView) (s : State), f (withHostSide v h s) = withHostSide v h (f s)

theorem IgnoresHostSide.comp {f g : State → State} (hg : IgnoresHostSide g) (hf : IgnoresHostSide f) :
    IgnoresHostSide fun s => g (f s) :=
  fun v h s => (congrArg g (hf v h s)).trans (hg v h (f s))

theorem IgnoresHostSide.ite {c : State → Prop} [DecidablePred c] {f g : State → State}
    (hc : ∀ v h s, c (withHostSide v h s) ↔ c s) (hf : IgnoresHostSide f) (hg : IgnoresHostSide g) :
    IgnoresHostSide fun s => if c s then f s else g s := by
  intro v h s
  simp only [hc]
  split
  · exact hf v h s
  · exact hg v h s

theorem ignoresHostSide_runDiscStep (x : Sample) : IgnoresHostSide (runDiscStep x) := by
  intro v h s
  unfold runDiscStep
  rw [withHostSide_cfg]
  cases s.cfg.DISC <;> rfl

theorem ignoresHostSide_runSample (x : Sample) : IgnoresHostSide (runSample x) := by
  intro v h s
  unfold runSample
  rw [ignoresHostSide_runDiscStep x v h s]
  rfl

theorem ignoresHostSide_runFrData (b : Bool) : IgnoresHostSide (runFrData b) :=
  .ite (c := fun s => s.frm.nb + 1 = 8) (fun _ _ _ => Iff.rfl) (fun _ _ _ => rfl) (fun _ _ _ => rfl)

theorem ignoresHostSide_runFrStopOk : IgnoresHostSide runFrStopOk :=
  .ite (c := fun s => (s.frm.ns + 1).toNat = s.cfg.NSTOP) (fun _ _ _ => Iff.rfl) (fun _ _ _ => rfl)
    (fun _ _ _ => rfl)

theorem ignoresHostSide_runFramer (b : Bool) : IgnoresHostSide (runFramer b) := by
  intro v h s
  unfold runFramer
  rw [withHostSide_frm]
  cases s.frm.fs with
  | idle => rfl
  | start => cases b <;> rfl
  | data => exact ignoresHostSide_runFrData b v h s
  | stop => cases b <;> [rfl; exact ignoresHostSide_runFrStopOk v h s]

theorem ignoresHostSide_runClock : IgnoresHostSide runClock :=
  .ite (c := fun s => latchDue s.cfg (runPllAdv s).pll = true) (fun _ _ _ => Iff.rfl)
    (fun v h s => ignoresHostSide_runFramer (polarity s.pll.x0) v h (runPllLatch (runPllAdv s))) (fun _ _ _ => rfl)

theorem ignoresHostSide_runTiming : IgnoresHostSide runTiming :=
  .ite (c := fun s => s.frm.fs = .idle) (fun _ _ _ => Iff.rfl)
    (.ite (c := fun s => startTransition s.pll = true) (fun _ _ _ => Iff.rfl)
      (ignoresHostSide_runClock.comp (f := runPllSnap) fun _ _ _ => rfl) (fun _ _ _ => rfl))
    (ignoresHostSide_runClock.comp
      (.ite (c := fun s => trans s.pll = true) (fun _ _ _ => Iff.rfl) (fun _ _ _ => rfl) (fun _ _ _ => rfl)))

/-! ## PUSH and POP in either order (R71, 40 R116) -/

/-- The state after a PUSH that finds room (40 R111). -/
def pushed (x : Sample) (s : State) : State :=
  quiet ((pushSample x s).setHost { s.host with taken := true })

theorem exec_push_of_sReady {x : Sample} {s : State} (h : sReady s = true) :
    exec (.push x) s = .next (pushed x s) := by
  simp [exec, execPush, pushed, h]

theorem exec_pop_of_popEnabled {s : State} (h : popEnabled s = true) : exec .pop s = .next (runPop s) := by
  simp [exec, execPop, h]

/-- A PUSH does not close the gate. -/
theorem popEnabled_pushed {x : Sample} {s : State} (h : popEnabled s = true) : popEnabled (pushed x s) = true := by
  obtain ⟨hlive, hocc, hgate⟩ := (popEnabled_iff s).1 h
  have hlen : (pushed x s).inp.fifo.length = s.inp.fifo.length + 1 := List.length_append
  refine (popEnabled_iff _).2 ⟨hlive, by omega, hgate.imp_right fun hwindow => ?_⟩
  exact hlen ▸ hwindow.trans (Nat.le_succ _)

/-- A POP leaves at least the room there was (40 R113). -/
theorem sReady_runPop {s : State} (h : sReady s = true) : sReady (runPop s) = true := by
  obtain ⟨hcfg, -, -, hfifo⟩ := runPop_frame s
  rw [sReady_iff] at h ⊢
  rw [hcfg, hfifo, List.length_drop]
  omega

/-- What POP performs between taking its sample and closing leaves the input stage alone (40 R113). -/
theorem runTiming_runSample_inp (x : Sample) (s : State) : (runTiming (runSample x s)).inp = s.inp := by
  obtain ⟨-, htiming, -⟩ := runTiming_frame (runSample x s)
  obtain ⟨-, hdisc, -⟩ := runDiscStep_frame x s
  exact htiming.trans hdisc

/-- A POP after a PUSH pops the same sample, and the pushed one is at the tail of what it leaves. -/
theorem runPop_pushed (x : Sample) {s : State} (h : s.inp.fifo ≠ []) :
    runPop (pushed x s) = (pushSample x (runPop s)).setHost { s.host with taken := true } := by
  obtain ⟨y, rest, hfifo⟩ := List.exists_cons_of_ne_nil h
  have hfifo' : (pushed x s).inp.fifo = y :: (rest ++ [x]) := congrArg (· ++ [x]) hfifo
  have htake : takeSample (rest ++ [x]) (pushed x s) =
      withHostSide { s.inp with fifo := rest ++ [x] } { s.host with taken := true } (takeSample rest s) := rfl
  rw [runPop_cons hfifo', runPop_cons hfifo, htake, ignoresHostSide_runSample y _ _ _,
    ignoresHostSide_runTiming _ _ _]
  simp only [closePop, pushSample, State.setInp_inp, runTiming_runSample_inp]
  rfl

/-- Settles O24: both orders end in the popped block with the sample at the tail; only the trace outputs differ, which
show the events of the last operation. -/
theorem pushAndPopCommute : Obligations.PushAndPopCommute := by
  intro s t u x hen hroom ht hu
  have hready := (sReady_iff s).2 hroom
  have hhost : (runPop s).host = s.host := (runPop_frame s).2.1
  rw [performAll_cons (exec_push_of_sReady hready),
    performAll_cons (exec_pop_of_popEnabled (popEnabled_pushed hen)),
    runPop_pushed x (popEnabled_fifo_ne_nil hen)] at ht
  rw [performAll_cons (exec_pop_of_popEnabled hen),
    performAll_cons (exec_push_of_sReady (sReady_runPop hready)), pushed, hhost] at hu
  cases ht
  cases hu
  exact ⟨⟨rfl, rfl, rfl, rfl, rfl⟩, rfl, rfl⟩

end Sys2Proof.MemoryOrder
end

section
/-! PROOFS. The model's operation words (30_encoding.md R80, R87, R88, R100, R102; logs 1, 2): each row's decoder is
characterised by what it answers, and both round trips are read off, row by row. -/

namespace Sys2Proof.Encoding
open Sys2Proof

/-! ## What each kind of row decodes -/

theorem decodeFixed_eq_ok_iff {st want : BitVec 16} {i j : Instr} :
    decodeFixed st want j = .ok i ↔ st = want ∧ j = i := by
  unfold decodeFixed
  split <;> simp [*]

/-- The two fields of a stream that holds a zero-extended operand. -/
theorem extractLsb'_zero_append {k n : Nat} (v : BitVec n) :
    ((0 : BitVec k) ++ v).extractLsb' n k = 0 ∧ ((0 : BitVec k) ++ v).extractLsb' 0 n = v := by
  refine ⟨BitVec.eq_of_getLsbD_eq fun i hi => ?_, BitVec.eq_of_getLsbD_eq fun i hi => ?_⟩ <;>
    simp [BitVec.getLsbD_append, hi]

/-- A stream whose upper field is zero is its zero-extended lower field. -/
theorem zero_append_of_extractLsb'_eq_zero {k n : Nat} {st : BitVec (k + n)} (h : st.extractLsb' n k = 0) :
    (0 : BitVec k) ++ st.extractLsb' 0 n = st := by
  rw [← h, BitVec.extractLsb'_append_extractLsb'_eq_extractLsb' (by omega)]
  simp

theorem decodeByte_eq_ok_iff {st : BitVec 16} {f : Byte → Instr} {i : Instr} :
    decodeByte st f = .ok i ↔ ∃ v : Byte, st = (0 : BitVec 8) ++ v ∧ f v = i ∧ i.wellFormed = true := by
  unfold decodeByte
  constructor
  · intro h
    split at h
    case isTrue hhigh =>
      split at h
      case isTrue hwf =>
        cases h
        exact ⟨lowByte st, (zero_append_of_extractLsb'_eq_zero hhigh).symm, rfl, hwf⟩
      case isFalse => cases h
    case isFalse => cases h
  · rintro ⟨v, rfl, rfl, hwf⟩
    obtain ⟨hhigh, hlow⟩ := extractLsb'_zero_append (k := 8) v
    rw [if_pos hhigh, show lowByte ((0 : BitVec 8) ++ v) = v from hlow, if_pos hwf]

/-- The byte stands above the start bit (30_encoding.md R80). -/
@[simp] theorem frameByte_frameStream (v : Byte) : frameByte (frameStream v) = v :=
  calc frameByte (frameStream v)
    _ = ((0 : BitVec 6) ++ (1 : BitVec 1) ++ v).extractLsb' 0 8 := extractLsb'_append_high _ _ 1 8 le_rfl
    _ = v.extractLsb' 0 8 := extractLsb'_append_low _ v 0 8 le_rfl
    _ = v := BitVec.extractLsb'_eq_self

theorem decodeFrame_eq_ok_iff {st : BitVec 16} {i : Instr} :
    decodeFrame st = .ok i ↔ ∃ v : Byte, st = frameStream v ∧ .frame v = i := by
  unfold decodeFrame
  constructor
  · intro h
    split at h
    case isTrue hst => cases h; exact ⟨_, hst, rfl⟩
    case isFalse => cases h
  · rintro ⟨v, rfl, rfl⟩
    rw [frameByte_frameStream, if_pos rfl]

/-! ## Rows -/

/-- The operation is well formed and stands in row `n` with these stream bits and no operand bits. -/
structure RowOf (n : Nat) (st : BitVec 16) (i : Instr) : Prop where
  selector : (selectorOf i).toNat = n
  stream : streamOf i = st
  operand : operandOf i = 0
  wellFormed : i.wellFormed = true

/-- A row without operands decodes its own operation only. -/
theorem rowOf_of_decodeFixed {n : Nat} {st want : BitVec 16} {i j : Instr} (h : decodeFixed st want j = .ok i)
    (hsel : (selectorOf j).toNat = n) (hst : streamOf j = want) (hop : operandOf j = 0)
    (hwf : j.wellFormed = true) : RowOf n st i := by
  obtain ⟨rfl, rfl⟩ := decodeFixed_eq_ok_iff.1 h
  exact ⟨hsel, hst, hop, hwf⟩

/-- A byte row decodes the operations of its bytes only. -/
theorem rowOf_of_decodeByte {n : Nat} {st : BitVec 16} {f : Byte → Instr} {i : Instr}
    (h : decodeByte st f = .ok i) (hsel : ∀ v, (selectorOf (f v)).toNat = n)
    (hst : ∀ v, streamOf (f v) = (0 : BitVec 8) ++ v) (hop : ∀ v, operandOf (f v) = 0) : RowOf n st i := by
  obtain ⟨v, rfl, rfl, hwf⟩ := decodeByte_eq_ok_iff.1 h
  exact ⟨hsel v, hst v, hop v, hwf⟩

theorem decodeRow_rdmb (st : BitVec 16) : decodeRow 5 st =
    if st.extractLsb' 9 7 = 0 then .ok (.rdmb (st.extractLsb' 0 9)) else .error .streamBits := rfl

theorem rowOf_of_decodeRow_rdmb {st : BitVec 16} {i : Instr} (h : decodeRow 5 st = .ok i) : RowOf 5 st i := by
  rw [decodeRow_rdmb] at h
  split at h
  case isTrue hhigh =>
    cases h
    exact ⟨rfl, zero_append_of_extractLsb'_eq_zero hhigh, rfl, rfl⟩
  case isFalse => cases h

theorem decodeRow_frData (st : BitVec 16) : decodeRow 21 st =
    if st = 0 then .ok (.frData false) else if st = 1 then .ok (.frData true) else .error .streamBits := rfl

theorem rowOf_of_decodeRow_frData {st : BitVec 16} {i : Instr} (h : decodeRow 21 st = .ok i) : RowOf 21 st i := by
  rw [decodeRow_frData] at h
  split at h
  case isTrue hst => cases h; exact ⟨rfl, hst.symm, rfl, rfl⟩
  split at h
  case isTrue hst => cases h; exact ⟨rfl, hst.symm, rfl, rfl⟩
  case isFalse => cases h

/-- What a row decodes is an operation of that row with these stream bits. -/
theorem rowOf_of_decodeRow {sel : BitVec 8} {st : BitVec 16} {i : Instr} (hsel : sel ≠ 0)
    (h : decodeRow sel st = .ok i) : RowOf sel.toNat st i := by
  unfold decodeRow at h
  have hn : sel.toNat ≠ 0 := fun h0 => hsel (BitVec.eq_of_toNat_eq h0)
  generalize sel.toNat = n at h hn
  match n, hn, h with
  | 0, hn, _ => exact absurd rfl hn
  | 1, _, h =>
    obtain ⟨v, rfl, rfl⟩ := decodeFrame_eq_ok_iff.1 h
    exact ⟨rfl, rfl, rfl, rfl⟩
  | 3, _, h | 7, _, h => cases h; exact ⟨rfl, rfl, rfl, rfl⟩
  | 5, _, h => exact rowOf_of_decodeRow_rdmb h
  | 21, _, h => exact rowOf_of_decodeRow_frData h
  | 24, _, h | 25, _, h | 28, _, h | 29, _, h | 35, _, h | 36, _, h | 37, _, h | 38, _, h =>
    exact rowOf_of_decodeByte h (fun _ => rfl) (fun _ => rfl) (fun _ => rfl)
  | 2, _, h | 4, _, h | 6, _, h | 8, _, h | 9, _, h | 10, _, h | 11, _, h | 13, _, h | 14, _, h | 15, _, h
  | 16, _, h | 17, _, h | 18, _, h | 19, _, h | 20, _, h | 22, _, h | 23, _, h | 26, _, h | 27, _, h | 30, _, h
  | 31, _, h | 32, _, h | 33, _, h | 34, _, h | 39, _, h =>
    exact rowOf_of_decodeFixed h rfl rfl rfl rfl
  | 12, _, h | _ + 40, _, h => cases h

/-- A well-formed operation without operand bits is what its row decodes from its stream bits. -/
theorem decodeRow_streamOf {i : Instr} (hwf : i.wellFormed = true) (hrow : selectorOf i ≠ 12) :
    decodeRow (selectorOf i) (streamOf i) = .ok i := by
  cases i with
  | histShift y => exact absurd rfl hrow
  | frame v => exact decodeFrame_eq_ok_iff.2 ⟨v, rfl, rfl⟩
  | push x | discStep x => rfl
  | rdmb a =>
    obtain ⟨hhigh, hlow⟩ := extractLsb'_zero_append (k := 7) a
    exact (if_pos hhigh).trans (congrArg (Except.ok ∘ Instr.rdmb) hlow)
  | frData b => cases b <;> rfl
  | ovf v | append v | mtOther v | mlAny v | dtOther v | dlAny v | dataAny v | ckAny v =>
    exact decodeByte_eq_ok_iff.2 ⟨v, rfl, rfl, hwf⟩
  | start | rdst | pop | mfMark | mfSpace | diff | postf | pllHold | pllSnap | pllNudge | pllAdv | pllLatch
  | pllRound | frStartOk | frStartFalse | frStopOk | frStopBad | mtMdmf | mtSdmf | dtDate | dtNumber | dtNonumber
  | dtName | dtNoname | extract => exact decodeFixed_eq_ok_iff.2 ⟨rfl, rfl⟩

/-- Away from HIST.SHIFT's row a word without operand bits is decoded by its row. -/
theorem decode_packWord_zero {sel : BitVec 8} (st : BitVec 16) (hrow : sel ≠ 12) :
    decode (packWord 0 sel st) = decodeRow sel st := by
  rw [decode, wordSelector_packWord, wordOperand_packWord, wordStream_packWord, if_neg hrow, if_pos rfl]

theorem decode_packWord_histShift (y : YWord) : decode (packWord y 12 0) = .ok (.histShift y) := by
  simp [decode]

/-- HIST.SHIFT's row is its own, and no other row has operand bits. -/
theorem histShift_or_operandOf_eq_zero (i : Instr) :
    (∃ y, i = .histShift y) ∨ (selectorOf i ≠ 12 ∧ operandOf i = 0) := by
  cases i
  case histShift y => exact .inl ⟨y, rfl⟩
  all_goals exact .inr ⟨by simp [selectorOf], rfl⟩

/-! ## The two round trips -/

/-- Settles O1: HIST.SHIFT's word is decoded from its operand bits, every other word by its row. -/
theorem encodedOperationDecodesToItself : Obligations.EncodedOperationDecodesToItself := by
  intro i hwf
  rcases histShift_or_operandOf_eq_zero i with ⟨y, rfl⟩ | ⟨hrow, hop⟩
  · exact decode_packWord_histShift y
  · rw [encode, hop, decode_packWord_zero _ hrow]
    exact decodeRow_streamOf hwf hrow

/-- Every case of a word that decodes (log 1). -/
theorem decode_cases {w : OpWord} {i : Instr} (h : decode w = .ok i) :
    (wordSelector w = 12 ∧ wordStream w = 0 ∧ i = .histShift (wordOperand w)) ∨
    (wordOperand w = 0 ∧ decodeRow (wordSelector w) (wordStream w) = .ok i) := by
  unfold decode at h
  split at h
  case isTrue hrow =>
    split at h
    case isTrue hst => cases h; exact .inl ⟨hrow, hst, rfl⟩
    case isFalse => cases h
  case isFalse =>
    split at h
    case isTrue hop => exact .inr ⟨hop, h⟩
    case isFalse => cases h

/-- Settles O2: a word that decodes agrees with the operation's word in each of its three fields. -/
theorem decodedWordIsTheEncoding : Obligations.DecodedWordIsTheEncoding := by
  intro w i hsel h
  rw [← packWord_fields w]
  rcases decode_cases h with ⟨hrow, hst, rfl⟩ | ⟨hop, hdec⟩
  · rw [hrow, hst]
    exact ⟨rfl, rfl⟩
  · have hi := rowOf_of_decodeRow hsel hdec
    rw [encode, hi.operand, hi.stream, BitVec.eq_of_toNat_eq hi.selector, hop]
    exact ⟨rfl, hi.wellFormed⟩

/-- A word written out is decoded by comparing it with the operation's own word. -/
theorem decode_of_eq_encode {w : OpWord} {i : Instr} (hwf : i.wellFormed = true) (hw : w = encode i) :
    decode w = .ok i :=
  hw ▸ encodedOperationDecodesToItself i hwf

/-- A table word, which has no selector, is decoded from its stream bits alone (log 2). -/
theorem decode_packWord_unselected (st : BitVec 16) : decode (packWord 0 0 st) = decodeUnselected st :=
  decode_packWord_zero st (by decide)

theorem decodeTableWord_eq_some {nbits w : Nat} {st : BitVec 16} {i : Instr}
    (hw : tableOpWord nbits w = packWord 0 0 st) (hst : decodeUnselected st = .ok i) :
    decodeTableWord nbits w = some i := by
  rw [decodeTableWord, hw, decode_packWord_unselected, hst]

/-- Settles O3: the block's selection by evaluation of its two tables (44 R190), the words by comparison with the
encoder's, and the bare table word as one without a selector. -/
theorem specBytesSelectTheirRows : Obligations.SpecBytesSelectTheirRows := by
  refine ⟨rfl, rfl, rfl, rfl, rfl, rfl, rfl, rfl, rfl, ?_, ?_, ?_, ?_, ?_, ?_, ?table⟩
  case table => exact decodeTableWord_eq_some (st := 0x80) (by decide) rfl
  all_goals exact decode_of_eq_encode rfl (by decide)

end Sys2Proof.Encoding
end

section
/-! PROOFS. A line frame as the framer receives it (30_encoding.md R80, R84; 43 R170 to R178; log 6): the start bit
opens the frame, eight data bits fill `sr` least significant first, and the stop bits hand the byte to the decoder. -/

namespace Sys2Proof.LineFrame
open Sys2Proof Sys2Proof.Machine

/-! ## The byte that eight bits assemble (30_encoding.md R84) -/

theorem shiftIn_eq (b : Bool) (sr : Byte) : shiftIn b sr = (if b then 0x80#8 else 0x00#8) ||| (sr >>> 1) := by
  cases b <;> rfl

/-- The new bit stands at bit 7, every older one a place lower (43 R173). -/
theorem getElem_shiftIn (b : Bool) (sr : Byte) {i : Nat} (hi : i < 8) :
    (shiftIn b sr)[i] = if h : i + 1 < 8 then sr[i + 1] else b := by
  have hnew : (if b then 0x80#8 else 0x00#8)[i] = (b && decide (i = 7)) := by decide +revert
  rw [shiftIn_eq, BitVec.getElem_or, hnew, BitVec.getElem_ushiftRight]
  split
  · simp [show i ≠ 7 by omega, show 1 + i = i + 1 by omega, *]
  · simp [show i = 7 by omega]

/-- Bits shifted into `sr` one after another (43 R173). -/
def shiftAll (bs : List Bool) (sr : Byte) : Byte := bs.foldl (fun r b => shiftIn b r) sr

theorem shiftAll_cons (b : Bool) (bs : List Bool) (sr : Byte) :
    shiftAll (b :: bs) sr = shiftAll bs (shiftIn b sr) := rfl

/-- The data bits of a line frame, least significant first (30_encoding.md R80). -/
def dataBits (v : Byte) : List Bool :=
  [v.getLsbD 0, v.getLsbD 1, v.getLsbD 2, v.getLsbD 3, v.getLsbD 4, v.getLsbD 5, v.getLsbD 6, v.getLsbD 7]

theorem frameBits_eq (nstop : Nat) (v : Byte) :
    frameBits nstop v = false :: (dataBits v ++ List.replicate nstop true) := rfl

/-- Eight bits displace whatever `sr` held. -/
theorem shiftAll_dataBits (v sr : Byte) : shiftAll (dataBits v) sr = v := by
  refine BitVec.eq_of_getLsbD_eq fun i hi => ?_
  simp only [dataBits, shiftAll_cons]
  interval_cases i <;> simp [shiftAll, getElem_shiftIn]

/-! ## One bit cell -/

theorem lineBit_of_terminal {s : State} (prev b : Bool) (ht : terminal s.dec.ds = true) : lineBit prev b s = s :=
  if_pos ht

/-- A frozen core takes no bit (60_exceptions.md R246). -/
theorem lineBits_of_terminal {s : State} (prev : Bool) (bs : List Bool) (ht : terminal s.dec.ds = true) :
    lineBits prev bs s = s := by
  induction bs generalizing prev with
  | nil => rfl
  | cons b bs ih => rw [lineBits, lineBit_of_terminal prev b ht, ih]

/-- The start transition and the start bit at its centre (42 R154, 43 R171). -/
theorem lineBit_start {s : State} (hlive : terminal s.dec.ds = false) (hidle : s.frm.fs = .idle) :
    lineBit true false s = s.setFrm { s.frm with fs := .data, nb := 0, sr := 0 } := by
  simp [lineBit, hlive, hidle, runFramer, runFrStartOk]

/-- Inside a frame every bit goes to FRAMER (43 R170). -/
theorem lineBit_of_ne_idle {s : State} (prev b : Bool) (hlive : terminal s.dec.ds = false)
    (hfs : s.frm.fs ≠ .idle) : lineBit prev b s = runFramer b s := by
  simp [lineBit, hlive, hfs]

theorem lineBits_cons_of_ne_idle {s : State} (prev b : Bool) (bs : List Bool) (hlive : terminal s.dec.ds = false)
    (hfs : s.frm.fs ≠ .idle) : lineBits prev (b :: bs) s = lineBits b bs (runFramer b s) := by
  rw [lineBits, lineBit_of_ne_idle prev b hlive hfs]

/-- Inside a frame the level of the line before a bit does not matter. -/
theorem lineBits_prev_congr {s : State} (p q : Bool) (bs : List Bool) (hlive : terminal s.dec.ds = false)
    (hfs : s.frm.fs ≠ .idle) : lineBits p bs s = lineBits q bs s := by
  cases bs with
  | nil => rfl
  | cons b bs => rw [lineBits_cons_of_ne_idle p b bs hlive hfs, lineBits_cons_of_ne_idle q b bs hlive hfs]

/-! ## The data bits (43 R173) -/

theorem runFramer_of_data (b : Bool) {s : State} (hfs : s.frm.fs = .data) : runFramer b s = runFrData b s := by
  simp [runFramer, hfs]

theorem runFrData_last (b : Bool) {s : State} (hnb : s.frm.nb + 1 = 8) :
    runFrData b s = s.setFrm { fs := .stop, nb := 8, ns := 0, sr := shiftIn b s.frm.sr } := by
  rw [runFrData, if_pos hnb, hnb]

theorem runFrData_more (b : Bool) {s : State} (hnb : s.frm.nb + 1 ≠ 8) :
    runFrData b s = s.setFrm { s.frm with nb := s.frm.nb + 1, sr := shiftIn b s.frm.sr } :=
  if_neg hnb

/-- The missing data bits fill `sr` and open the stop bits. -/
theorem lineBits_data {bs : List Bool} {s : State} (prev : Bool) (rest : List Bool)
    (hlive : terminal s.dec.ds = false) (hfs : s.frm.fs = .data) (hne : bs ≠ [])
    (hlen : s.frm.nb.toNat + bs.length = 8) :
    lineBits prev (bs ++ rest) s =
      lineBits true rest (s.setFrm { fs := .stop, nb := 8, ns := 0, sr := shiftAll bs s.frm.sr }) := by
  induction bs generalizing prev s with
  | nil => exact absurd rfl hne
  | cons b bs ih =>
    rw [List.cons_append, lineBits_cons_of_ne_idle prev b _ hlive (by simp [hfs]),
      runFramer_of_data b hfs]
    rw [List.length_cons] at hlen
    by_cases hbs : bs = []
    · subst hbs
      have hnb : s.frm.nb + 1 = 8 := by
        rw [List.length_nil] at hlen
        bv_omega
      rw [runFrData_last b hnb]
      exact lineBits_prev_congr b true rest hlive (by simp)
    · have hpos : 0 < bs.length := List.length_pos_iff.2 hbs
      have hnb : (s.frm.nb + 1).toNat = s.frm.nb.toNat + 1 := by bv_omega
      rw [runFrData_more b (by bv_omega)]
      exact ih b hlive hfs hbs (show (s.frm.nb + 1).toNat + bs.length = 8 by omega)

theorem lineBits_dataBits {s : State} (v : Byte) (prev : Bool) (rest : List Bool) (hlive : terminal s.dec.ds = false)
    (hfs : s.frm.fs = .data) (hnb : s.frm.nb = 0) :
    lineBits prev (dataBits v ++ rest) s =
      lineBits true rest (s.setFrm { fs := .stop, nb := 8, ns := 0, sr := v }) := by
  rw [lineBits_data prev rest hlive hfs (by simp [dataBits]) (by rw [hnb]; rfl), shiftAll_dataBits]

/-! ## The stop bits (43 R175) -/

theorem runFramer_of_stop {s : State} (hfs : s.frm.fs = .stop) : runFramer true s = runFrStopOk s := by
  simp [runFramer, hfs]

theorem runFrStopOk_last {s : State} (hns : (s.frm.ns + 1).toNat = s.cfg.NSTOP) : runFrStopOk s =
    runDecoder s.frm.sr (emitByte s.frm.sr (s.setFrm { s.frm with ns := s.frm.ns + 1, fs := .idle })) :=
  if_pos hns

theorem runFrStopOk_more {s : State} (hns : (s.frm.ns + 1).toNat ≠ s.cfg.NSTOP) :
    runFrStopOk s = s.setFrm { s.frm with ns := s.frm.ns + 1 } :=
  if_neg hns

/-- The last of the missing stop bits hands the byte over. -/
theorem lineBits_stop {n : Nat} {s : State} (prev : Bool) (hlive : terminal s.dec.ds = false)
    (hfs : s.frm.fs = .stop) (hpos : n ≠ 0) (hlen : s.frm.ns.toNat + n = s.cfg.NSTOP) (hmax : s.cfg.NSTOP < 4) :
    lineBits prev (List.replicate n true) s =
      runDecoder s.frm.sr (emitByte s.frm.sr
        (s.setFrm { s.frm with fs := .idle, ns := BitVec.ofNat 2 s.cfg.NSTOP })) := by
  induction n generalizing prev s with
  | zero => exact absurd rfl hpos
  | succ n ih =>
    have hns : (s.frm.ns + 1).toNat = s.frm.ns.toNat + 1 := by bv_omega
    rw [List.replicate_succ, lineBits_cons_of_ne_idle prev true _ hlive (by simp [hfs]), runFramer_of_stop hfs]
    by_cases hn : n = 0
    · subst hn
      have hlast : s.frm.ns + 1 = BitVec.ofNat 2 s.cfg.NSTOP := by
        rw [← hlen, ← hns, BitVec.ofNat_toNat, BitVec.setWidth_eq]
      rw [runFrStopOk_last (hns.trans hlen), hlast]
      rfl
    · rw [runFrStopOk_more (by omega)]
      exact ih true hlive hfs hn (show (s.frm.ns + 1).toNat + n = s.cfg.NSTOP by omega) hmax

/-! ## The whole frame (43 R178) -/

/-- The bits of a line frame from an idle framer: the start bit, the data bits, the stop bits. -/
theorem lineBits_frameBits {s : State} (v : Byte) (hstop : s.cfg.NSTOP = 1 ∨ s.cfg.NSTOP = 2)
    (hlive : terminal s.dec.ds = false) (hidle : s.frm.fs = .idle) :
    lineBits true (frameBits s.cfg.NSTOP v) s = runDecoder v (emitByte v
      (s.setFrm { fs := .idle, nb := 8, ns := BitVec.ofNat 2 s.cfg.NSTOP, sr := v })) := by
  calc lineBits true (frameBits s.cfg.NSTOP v) s
    _ = lineBits false (dataBits v ++ List.replicate s.cfg.NSTOP true)
          (s.setFrm { s.frm with fs := .data, nb := 0, sr := 0 }) := by
      rw [frameBits_eq, lineBits, lineBit_start hlive hidle]
    _ = lineBits true (List.replicate s.cfg.NSTOP true) (s.setFrm { fs := .stop, nb := 8, ns := 0, sr := v }) :=
      lineBits_dataBits v false _ hlive rfl rfl
    _ = _ := lineBits_stop true hlive rfl (by omega) (Nat.zero_add _) (show s.cfg.NSTOP < 4 by omega)

/-- Settles O45: the frame's bits on the state without the old trace outputs, and none of them on a frozen core. -/
theorem frameDeliversItsByte : Obligations.FrameDeliversItsByte := by
  refine ⟨fun v s hstop hidle hlive => ?_, fun v s ht => ?_⟩
  · exact congrArg Host.Outcome.next (lineBits_frameBits (s := quiet s) v hstop hlive hidle)
  · exact congrArg Host.Outcome.next (lineBits_of_terminal (s := quiet s) true _ ht)

end Sys2Proof.LineFrame
end

section
/-! PROOFS. An operation presented outside its selecting condition (30_encoding.md R100; log 4): every row is a
`performIf` of its condition. -/

namespace Sys2Proof.Selection
open Sys2Proof Sys2Proof.Machine

theorem performIf_unselected {c : Bool} {u s : State} (h : c ≠ true) : performIf c u s = .next s := by
  rw [Bool.eq_false_iff.2 h, performIf_false]

/-- A framer row is performed only in its state (43 R170). -/
theorem performIf_fs_unselected {f : FState} {u s : State} (h : s.frm.fs ≠ f) :
    performIf (s.frm.fs == f) u s = .next s :=
  performIf_unselected (mt beq_iff_eq.1 h)

theorem byteMeets_of_takesByte {st : DState} {s : State} (h : takesByte st s = true) : byteMeets st s := by
  simp only [takesByte, bufferFull, Bool.and_eq_true, Bool.not_eq_true', decide_eq_false_iff_not, beq_iff_eq] at h
  obtain ⟨⟨-, hroom⟩, hds⟩ := h
  exact ⟨hds, hroom⟩

/-- A row of the decoder's table is performed only on a byte that its state meets (44 R190). -/
theorem decoderRow_unselected {st : DState} {v : Byte} {body : Decoder → Decoder} {s : State}
    (h : ¬ byteMeets st s) : decoderRow st v body s = .next s :=
  performIf_unselected (mt byteMeets_of_takesByte h)

/-! ## The operations with a condition of their own, by agent -/

theorem exec_discPart_unselected {s : State} (h : isRef s.cfg = false) :
    ∀ i ∈ [Instr.mfMark, .mfSpace, .diff, .postf], exec i s = .next s := by
  simp only [List.forall_mem_cons, List.not_mem_nil, false_imp_iff, implies_true, and_true]
  have hc : isRef s.cfg ≠ true := Bool.eq_false_iff.1 h
  exact ⟨performIf_unselected hc, performIf_unselected hc, performIf_unselected hc, performIf_unselected hc⟩

theorem exec_pllSnap_unselected {s : State} (h : ¬ (s.frm.fs = .idle ∧ Machine.trans s.pll = true ∧ s.pll.x0 < 0)) :
    exec .pllSnap s = .next s :=
  performIf_unselected fun hc => h (by simpa [startTransition_iff] using hc)

theorem exec_pllNudge_unselected {s : State} (h : ¬ (s.frm.fs ≠ .idle ∧ Machine.trans s.pll = true)) :
    exec .pllNudge s = .next s :=
  performIf_unselected fun hc => h (by simpa using hc)

theorem exec_pllAdv_unselected {s : State} (h : s.frm.fs = .idle) : exec .pllAdv s = .next s :=
  performIf_unselected (by simp [h])

theorem exec_pllLatch_unselected {s : State} (h : s.pll.icont < s.cfg.PLLISPB2) : exec .pllLatch s = .next s :=
  performIf_unselected (mt (latchDue_iff s.cfg s.pll).1 (Int.not_le.2 h))

theorem exec_ovf_unselected {s : State} (v : Byte)
    (h : terminal s.dec.ds = true ∨ s.dec.msglen.toNat ≠ s.cfg.MSG_MAX) : exec (.ovf v) s = .next s :=
  performIf_unselected (by rcases h with h | h <;> simp [h, bufferFull])

theorem exec_append_unselected {s : State} (v : Byte)
    (h : terminal s.dec.ds = true ∨ s.dec.msglen.toNat = s.cfg.MSG_MAX) : exec (.append v) s = .next s :=
  performIf_unselected (by rcases h with h | h <;> simp [h, bufferFull])

theorem exec_dataType_unselected {s : State} (h : ¬ byteMeets .dt s) :
    ∀ i ∈ [Instr.dtDate, .dtNumber, .dtNonumber, .dtName, .dtNoname], exec i s = .next s := by
  simp only [List.forall_mem_cons, List.not_mem_nil, false_imp_iff, implies_true, and_true]
  exact ⟨decoderRow_unselected h, decoderRow_unselected h, decoderRow_unselected h, decoderRow_unselected h,
    decoderRow_unselected h⟩

/-- Settles O15: the conditions by agent, the discriminator's and the PLL's first, then the framer's and the
decoder's rows. -/
theorem unselectedOperationsChangeNothing : Obligations.UnselectedOperationsChangeNothing := fun _ =>
  ⟨exec_discPart_unselected, exec_pllSnap_unselected, exec_pllNudge_unselected, exec_pllAdv_unselected,
    exec_pllLatch_unselected,
    fun h => ⟨performIf_fs_unselected h, performIf_fs_unselected h⟩,
    fun h _ => performIf_fs_unselected h,
    fun h => ⟨performIf_fs_unselected h, performIf_fs_unselected h⟩,
    fun h v => exec_ovf_unselected v h, fun h v => exec_append_unselected v h,
    fun h => ⟨decoderRow_unselected h, decoderRow_unselected h, fun _ => decoderRow_unselected h⟩,
    fun h _ => decoderRow_unselected h,
    fun h => ⟨exec_dataType_unselected h, fun _ => decoderRow_unselected h⟩,
    fun h _ => decoderRow_unselected h, fun h _ => decoderRow_unselected h, fun h _ => decoderRow_unselected h⟩

end Sys2Proof.Selection
end

section
/-! PROOFS. The sample input stage (40_sample_input_stage.md): the host's operations, the gate of POP, one rising edge,
POP as the sequence of its operations, and streaming equivalence. -/

namespace Sys2Proof.SampleInput
open Sys2Proof Sys2Proof.Machine Sys2Proof.Invariants Sys2Proof.MemoryOrder

/-! ## The host's operations (R111, R118 to R120) -/

/-- Nothing is below a length of 0, so RDMB reads 0 everywhere after a reset (20_memory.md R62). -/
theorem memRead_resetDecoder (a : Nat) : memRead resetDecoder a = 0 :=
  if_neg (Nat.not_lt_zero a)

/-- `rst` and `start` make a new session, whatever else stands at the ports (R124). -/
theorem clockEdge_of_session {p : PortIn} (popNow : Bool) (s : State) (h : p.rst = true ∨ p.start = true) :
    clockEdge p popNow s = newSession s := by
  unfold clockEdge
  rcases h with hrst | hstart
  · rw [if_pos hrst]
  · rw [if_pos hstart, ite_self]

theorem resetDisc_of_isRef {c : Config} (h : isRef c = true) :
    (resetDisc c).xs = List.replicate c.W 0 ∧ (resetDisc c).dl = List.replicate c.L 0 := by
  unfold isRef at h
  unfold resetDisc
  cases hdisc : c.DISC with
  | ref r => exact ⟨rfl, rfl⟩
  | ident => simp [hdisc] at h
  | other n width => simp [hdisc] at h

/-- Settles O8: the next state is `newSession`, element by element. -/
theorem startMakesANewSession : Obligations.StartMakesANewSession := fun s =>
  ⟨newSession s, rfl, fun _ popNow h => clockEdge_of_session popNow s h, rfl, rfl, resetDisc_of_isRef, rfl, rfl,
    rfl, rfl, rfl, rfl, rfl, rfl, rfl, rfl, rfl, memRead_resetDecoder, rfl, rfl, rfl, rfl⟩

theorem sReady_eq_false_iff (s : State) : sReady s = false ↔ s.cfg.FIFO_DEPTH ≤ s.inp.fifo.length := by
  rw [← Nat.not_lt, ← sReady_iff, Bool.not_eq_true]

/-- A PUSH that finds no room takes nothing (R111). -/
theorem exec_push_of_full {x : Sample} {s : State} (h : sReady s = false) :
    exec (.push x) s = .next (quiet (s.setHost { s.host with taken := false })) := by
  simp [exec, execPush, h]

/-- Settles O16: the two cases of `s_ready`. -/
theorem pushTakesTheSampleWhenThereIsRoom : Obligations.PushTakesTheSampleWhenThereIsRoom := fun _ s =>
  ⟨fun hroom => exec_push_of_sReady ((sReady_iff s).2 hroom),
    fun hfull => exec_push_of_full ((sReady_eq_false_iff s).2 hfull)⟩

/-- Settles O17. -/
theorem rdstReturnsTheStatusWords : Obligations.RdstReturnsTheStatusWords := fun _ => rfl

/-- Settles O19. -/
theorem rdmbReturnsTheByteOrZero : Obligations.RdmbReturnsTheByteOrZero := fun _ _ => rfl

/-! ## The gate of POP, and one rising edge (R112, R124) -/

theorem exec_pop_of_not_popEnabled {s : State} (h : popEnabled s = false) : exec .pop s = .next (quiet s) := by
  simp [exec, execPop, h]

/-- Settles O21: the gate as a proposition, and POP behind a closed one. -/
theorem popWaitsUnlessItsGateIsOpen : Obligations.PopWaitsUnlessItsGateIsOpen := fun s =>
  ⟨popEnabled_iff s, exec_pop_of_not_popEnabled⟩

/-- The state after POP, whose gate may be closed (R112, 60_exceptions.md R258). -/
def popped (s : State) : State := if popEnabled s then runPop s else quiet s

theorem exec_pop (s : State) : exec .pop s = .next (popped s) := rfl

/-- POP or waiting leaves at least the room there was. -/
theorem sReady_popped {s : State} (h : sReady s = true) : sReady (popped s) = true := by
  unfold popped
  split
  · exact sReady_runPop h
  · exact h

/-- One edge without a new session: the POP first, where one completes, and then the PUSH (R124, log 18). -/
theorem clockEdge_of_run {p : PortIn} {popNow : Bool} (s : State) (hrst : p.rst = false) (hstart : p.start = false) :
    clockEdge p popNow s =
      if p.s_valid && sReady s then pushSample p.s_data (if popNow then popped s else quiet s)
      else if popNow then popped s else quiet s := by
  cases popNow <;> simp [clockEdge, popped, hrst, hstart]

theorem clockEdge_of_sample {p : PortIn} {popNow : Bool} {s : State} (hrst : p.rst = false) (hstart : p.start = false)
    (hvalid : p.s_valid = true) (hready : sReady s = true) :
    clockEdge p popNow s = pushSample p.s_data (if popNow then popped s else quiet s) := by
  rw [clockEdge_of_run s hrst hstart, hvalid, hready]
  rfl

theorem clockEdge_of_no_sample {p : PortIn} {popNow : Bool} {s : State} (hrst : p.rst = false)
    (hstart : p.start = false) (h : p.s_valid = false ∨ s.cfg.FIFO_DEPTH ≤ s.inp.fifo.length) :
    clockEdge p popNow s = if popNow then popped s else quiet s := by
  rw [← sReady_eq_false_iff] at h
  rw [clockEdge_of_run s hrst hstart, if_neg]
  rcases h with h | h <;> simp [h]

/-- Settles O27: the edge without a session by whether it takes a sample, and each of these with and without a POP. -/
theorem clockEdgePriorities : Obligations.ClockEdgePriorities := by
  intro p popNow s
  refine ⟨fun h => congrArg _ (clockEdge_of_session popNow s h).symm, fun hrst hstart hvalid hroom => ?_,
    fun hrst hstart h => ?_, fun hrst hstart hvalid hroom => ?_, clockEdge_of_no_sample⟩
  · have hready := (sReady_iff s).2 hroom
    refine ⟨pushed p.s_data (popped s), popped s, exec_pop s, ?_, ?_⟩
    · rw [performAll_cons (exec_pop s), performAll_cons (exec_push_of_sReady (sReady_popped hready))]
      rfl
    · rw [clockEdge_of_sample hrst hstart hvalid hready]
      exact ⟨⟨rfl, rfl, rfl, rfl, rfl⟩, rfl⟩
  · rw [clockEdge_of_no_sample hrst hstart h]
    rfl
  · have hready := (sReady_iff s).2 hroom
    refine ⟨pushed p.s_data s, exec_push_of_sReady hready, ?_⟩
    rw [clockEdge_of_sample hrst hstart hvalid hready]
    exact ⟨⟨rfl, rfl, rfl, rfl, rfl⟩, rfl⟩

/-! ## POP as the sequence of its operations (R113) -/

/-- The selected operation takes `s` to `t`, or nothing is selected and nothing changes. -/
def Performs (o : Option Instr) (s t : State) : Prop :=
  match o with
  | some i => exec i s = .next t
  | none => t = s

/-- The state after the transition operation (42 R153 to R155). -/
def afterTransition (s : State) : State :=
  if s.frm.fs = .idle then (if startTransition s.pll then runPllSnap s else s)
  else if Machine.trans s.pll then runPllNudge s else s

/-- PLL.SNAP leaves `FS_IDLE`, so it is exactly the idle framer that holds the clock (42 R153, R154). -/
theorem runTiming_eq (s : State) : runTiming s =
    if (afterTransition s).frm.fs = .idle then afterTransition s else runClock (afterTransition s) := by
  unfold runTiming afterTransition
  by_cases hidle : s.frm.fs = .idle
  · by_cases hstart : startTransition s.pll = true
    · simp [hidle, hstart, runPllSnap]
    · simp [hidle, hstart, runPllHold]
  · by_cases htrans : Machine.trans s.pll = true
    · simp [hidle, htrans, runPllNudge]
    · simp [hidle, htrans]

/-- No transition operation writes the history (42 R153 to R155). -/
theorem afterTransition_x0 (s : State) : (afterTransition s).pll.x0 = s.pll.x0 := by
  unfold afterTransition
  repeat' split
  all_goals rfl

theorem selectTransition_of_ne_idle {fs : FState} (h : fs ≠ .idle) (tr neg : Bool) :
    selectTransition fs tr neg = if tr then some .pllNudge else none := by
  cases fs with
  | idle => exact absurd rfl h
  | start | data | stop => rfl

/-- The transition operation is the one the state selects (42 R153 to R155). -/
theorem performs_selectTransition (s : State) :
    Performs (selectTransition s.frm.fs (Machine.trans s.pll) (decide (s.pll.x0 < 0))) s (afterTransition s) := by
  unfold afterTransition
  by_cases hidle : s.frm.fs = .idle
  · have hselect : selectTransition s.frm.fs (Machine.trans s.pll) (decide (s.pll.x0 < 0)) =
        some (if startTransition s.pll then .pllSnap else .pllHold) := by rw [hidle]; rfl
    rw [hselect, if_pos hidle]
    split
    case isTrue hstart => simp [Performs, exec, execPllSnap, hidle, hstart]
    case isFalse => rfl
  · rw [selectTransition_of_ne_idle hidle, if_neg hidle]
    split
    case isTrue htrans => simp [Performs, exec, execPllNudge, bne_iff_ne.2 hidle, htrans]
    case isFalse => rfl

/-- FRAMER is the framer operation the state selects (43 R170). -/
theorem performs_selectFramer (b : Bool) (s : State) :
    Performs (selectFramer s.frm.fs b) s (runFramer b s) := by
  unfold runFramer
  cases hfs : s.frm.fs with
  | idle => rfl
  | start => cases b <;> simp [Performs, selectFramer, exec, execFrStartOk, execFrStartFalse, hfs]
  | data => simp [Performs, selectFramer, exec, execFrData, hfs]
  | stop => cases b <;> simp [Performs, selectFramer, exec, execFrStopOk, execFrStopBad, hfs]

theorem exec_pllAdv_of_ne_idle {s : State} (h : s.frm.fs ≠ .idle) : exec .pllAdv s = .next (runPllAdv s) := by
  simp [exec, execPllAdv, bne_iff_ne.2 h]

theorem exec_pllLatch_of_le {s : State} (h : (s.cfg.PLLISPB2 : Int) ≤ s.pll.icont) :
    exec .pllLatch s = .next (runPllLatch s) := by
  simp [exec, execPllLatch, (latchDue_iff s.cfg s.pll).2 h]

/-- Short of the bit centre the clock only advances (42 R156). -/
theorem runClock_of_lt {s : State} (h : (runPllAdv s).pll.icont < (runPllAdv s).cfg.PLLISPB2) :
    runClock s = runPllAdv s :=
  if_neg (mt (latchDue_iff _ _).1 (Int.not_le.2 h))

/-- At the bit centre the bit latched goes to FRAMER (42 R157). -/
theorem runClock_of_le {s : State} (h : (runPllAdv s).cfg.PLLISPB2 ≤ (runPllAdv s).pll.icont) :
    runClock s = runFramer (polarity s.pll.x0) (runPllLatch (runPllAdv s)) :=
  if_pos ((latchDue_iff _ _).2 h)

/-- Settles O22: what POP performs after HIST.SHIFT is the selected transition operation, then the clock where the
framer is not idle. -/
theorem popIsTheSequenceOfItsOperations : Obligations.PopIsTheSequenceOfItsOperations := by
  intro s x rest hen hfifo
  have hx0 := afterTransition_x0 (runSample x (takeSample rest s))
  refine ⟨runDiscStep x (takeSample rest s), runSample x (takeSample rest s),
    afterTransition (runSample x (takeSample rest s)), runTiming (runSample x (takeSample rest s)), rfl, rfl,
    performs_selectTransition _, ?_, ?_⟩
  · generalize runSample x (takeSample rest s) = a at hx0 ⊢
    rw [runTiming_eq]
    split
    case isTrue => rfl
    case isFalse hfs =>
      refine ⟨runPllAdv (afterTransition a), exec_pllAdv_of_ne_idle hfs, ?_⟩
      split
      case isTrue hlt => exact runClock_of_lt hlt
      case isFalse hle =>
        rw [runClock_of_le (Int.not_lt.1 hle), hx0]
        exact ⟨_, exec_pllLatch_of_le (Int.not_lt.1 hle), congrArg (fun v => some (polarity v)) hx0,
          performs_selectFramer _ _⟩
  · rw [exec_pop_of_popEnabled hen, runPop_cons hfifo]
    rfl

/-! ## Streaming equivalence (R116)

A run is compared with the core that finds the whole stream, the FIFO and the samples still to be pushed, in its FIFO
from the first. More samples never close the gate, so every POP of the run is also this core's next POP; and a run that
ends quiescent has pushed everything, so this core comes to rest where the run does. -/

/-- `s` with `xs` more samples at the FIFO's tail, and without what the block does not hold: the trace outputs of the
last operation and the host's view. -/
def fed (xs : List Sample) (s : State) : State :=
  quiet (withHostSide { s.inp with fifo := s.inp.fifo ++ xs } resetHost s)

/-- A PUSH takes the next sample of the stream. -/
theorem fed_pushed (x : Sample) (xs : List Sample) (s : State) : fed xs (pushed x s) = fed (x :: xs) s :=
  congrArg (fun fifo => quiet (withHostSide { s.inp with fifo := fifo } resetHost s))
    (List.append_assoc s.inp.fifo [x] xs)

theorem fed_nil_inp (s : State) : (fed [] s).inp = s.inp := by
  simp [fed, withHostSide]

theorem popEnabled_fed_nil (s : State) : popEnabled (fed [] s) = popEnabled s := by
  unfold popEnabled occ
  rw [fed_nil_inp]
  rfl

/-- More samples do not close the gate (R112). -/
theorem popEnabled_fed (xs : List Sample) {s : State} (h : popEnabled s = true) : popEnabled (fed xs s) = true := by
  obtain ⟨hlive, hocc, hgate⟩ := (popEnabled_iff s).1 h
  have hlen : s.inp.fifo.length ≤ (fed xs s).inp.fifo.length := by simp [fed, withHostSide]
  exact (popEnabled_iff _).2 ⟨hlive, hocc.trans hlen, hgate.imp_right hlen.trans'⟩

/-- A POP does the same whatever follows the head of the FIFO (R113). -/
theorem runPop_fed (xs : List Sample) {s : State} (h : s.inp.fifo ≠ []) :
    runPop (fed xs s) =
      withHostSide { (runPop s).inp with fifo := (runPop s).inp.fifo ++ xs } resetHost (runPop s) := by
  obtain ⟨y, rest, hfifo⟩ := List.exists_cons_of_ne_nil h
  have hfifo' : (fed xs s).inp.fifo = y :: (rest ++ xs) := congrArg (· ++ xs) hfifo
  have htake : takeSample (rest ++ xs) (fed xs s) =
      withHostSide { s.inp with fifo := rest ++ xs } resetHost (takeSample rest s) := rfl
  rw [runPop_cons hfifo', runPop_cons hfifo, htake, ignoresHostSide_runSample y _ _ _,
    ignoresHostSide_runTiming _ _ _]
  simp only [closePop, withHostSide, State.setInp_inp, runTiming_runSample_inp]
  rfl

/-- The core pops while it can: from `s` it comes to rest at `t`, and `es` are the events its trace outputs show. -/
inductive Drains : State → List TraceEvent → State → Prop
  | rest {s : State} (h : popEnabled s = false) : Drains s [] s
  | pop {s t : State} {es : List TraceEvent} (h : popEnabled s = true) (hrest : Drains (quiet (runPop s)) es t) :
    Drains s (eventsShown (runPop s).trace ++ es) t

/-- The core has no choice of when to stop or what to show (R112, R113). -/
theorem Drains.unique {s t u : State} {es fs : List TraceEvent} (ht : Drains s es t) (hu : Drains s fs u) :
    es = fs ∧ t = u := by
  induction ht generalizing fs with
  | rest hclosed =>
    cases hu with
    | rest => exact ⟨rfl, rfl⟩
    | pop hopen => cases hclosed.symm.trans hopen
  | pop hopen _ ih =>
    cases hu with
    | rest hclosed => cases hclosed.symm.trans hopen
    | pop _ hrest =>
      obtain ⟨hes, htu⟩ := ih hrest
      exact ⟨congrArg _ hes, htu⟩

/-- A POP of `s` is the next POP of the core fed with more. -/
theorem Drains.of_runPop {s t : State} {xs : List Sample} {es : List TraceEvent} (hen : popEnabled s = true)
    (h : Drains (fed xs (runPop s)) es t) : Drains (fed xs s) (eventsShown (runPop s).trace ++ es) t := by
  have hpop := runPop_fed xs (popEnabled_fifo_ne_nil hen)
  have htrace : (runPop (fed xs s)).trace = (runPop s).trace := by rw [hpop]; rfl
  have hquiet : quiet (runPop (fed xs s)) = fed xs (runPop s) := by rw [hpop]; rfl
  rw [← htrace]
  exact .pop (popEnabled_fed xs hen) (hquiet ▸ h)

/-- The first operation of a run: a PUSH takes its sample from the stream, a POP is the fed core's next, and waiting or
any other operation changes only what is not the block's. -/
theorem Drains.of_exec {i : Instr} {is : List Instr} {s r t : State} {es : List TraceEvent}
    (hi : agentOp i = true) (hstart : i ≠ .start) (htaken : ∀ x, i = .push x → sReady s = true)
    (hr : exec i s = .next r) (h : Drains (fed (pushesOf is) r) es t) :
    Drains (fed (pushesOf (i :: is)) s) (eventsShown r.trace ++ es) t := by
  cases i
  case start => exact absurd rfl hstart
  case push x =>
    rw [exec_push_of_sReady (htaken x rfl)] at hr
    cases hr
    exact fed_pushed x (pushesOf is) s ▸ h
  case pop =>
    cases hen : popEnabled s with
    | true =>
      rw [exec_pop_of_popEnabled hen] at hr
      cases hr
      exact .of_runPop hen h
    | false =>
      rw [exec_pop_of_not_popEnabled hen] at hr
      cases hr
      exact h
  case rdst | rdmb | extract =>
    cases hr
    exact h
  all_goals cases hi

/-- A run that ends quiescent pops what the core pops that is fed the whole stream at once. -/
theorem drains_of_performAll {is : List Instr} {s t : State} (his : withoutStart is = true)
    (htaken : everySampleTaken is s) (h : performAll is s = .next t) (hquiescent : popEnabled t = false) :
    Drains (fed (pushesOf is) s) (emittedBy is s) (fed [] t) := by
  induction is generalizing s with
  | nil =>
    cases h
    exact .rest ((popEnabled_fed_nil _).trans hquiescent)
  | cons i is ih =>
    obtain ⟨r, hr⟩ := exec_next i s
    simp only [withoutStart, List.all_cons, Bool.and_eq_true, bne_iff_ne] at his
    obtain ⟨⟨hi, hstart⟩, hrest⟩ := his
    simp only [everySampleTaken, hr] at htaken
    obtain ⟨hroom, htakenRest⟩ := htaken
    rw [performAll_cons hr] at h
    rw [emittedBy_cons hr]
    exact .of_exec hi hstart hroom hr (ih hrest htakenRest h)

theorem sameBlock_of_fed_nil_eq {t u : State} (h : fed [] t = fed [] u) : sameBlock t u := by
  have hinp : (fed [] t).inp = (fed [] u).inp := by rw [h]
  rw [fed_nil_inp, fed_nil_inp] at hinp
  exact ⟨hinp, (congrArg State.disc h :), (congrArg State.pll h :), (congrArg State.frm h :),
    (congrArg State.dec h :)⟩

/-- Settles O25: either run pops what the core pops that is fed the whole stream at once, and the core has no choice. -/
theorem interleavingDoesNotMatter : Obligations.InterleavingDoesNotMatter := by
  intro s t u is js his hjs hpushes htakenI htakenJ ht hu hrestT hrestU
  have hdrainsI := drains_of_performAll his htakenI ht hrestT
  have hdrainsJ := drains_of_performAll hjs htakenJ hu hrestU
  rw [hpushes] at hdrainsI
  obtain ⟨hevents, hend⟩ := hdrainsI.unique hdrainsJ
  exact ⟨sameBlock_of_fed_nil_eq hend, hevents⟩

end Sys2Proof.SampleInput
end

section
/-! PROOFS. The discriminator (41_discriminator.md R130 to R142): DISC.STEP of each `DISC`, the parts of `DISC_REF` on
their own, the widths of their results, and the first output of a session. -/

namespace Sys2Proof.Discriminator
open Sys2Proof Sys2Proof.Machine Sys2Proof.Invariants

/-! ## The arithmetic of `DISC_REF` (41 R136 to R139) -/

/-- The energy as R136 writes it: `>>a 10` is the floor division by 1024. -/
theorem toneEnergy_eq (ci cq : List Int) (xs : List Sample) :
    toneEnergy ci cq xs = (correlate xs ci / 1024) ^ 2 + (correlate xs cq / 1024) ^ 2 := by
  rw [sq, sq]
  rfl

theorem lineSum_eq_sum (ds : List Int) : lineSum ds = ds.sum := by
  induction ds with
  | nil => rfl
  | cons d ds ih => rw [lineSum, ih, List.sum_cons]

@[simp] theorem correlate_nil (xs : List Sample) : correlate xs [] = 0 := by
  cases xs <;> rfl

/-- Coefficients beyond the delay line meet no sample. -/
theorem correlate_take (xs : List Sample) (cs : List Int) : correlate xs (cs.take xs.length) = correlate xs cs := by
  induction xs generalizing cs with
  | nil => rfl
  | cons x xs ih =>
    cases cs with
    | nil => rfl
    | cons c cs => exact congrArg (sampleValue x * c + ·) (ih cs)

theorem sampleValue_zero : sampleValue 0 = 0 := rfl

theorem correlate_zeros (n : Nat) (cs : List Int) : correlate (List.replicate n 0) cs = 0 := by
  induction n generalizing cs with
  | zero => rfl
  | succ n ih =>
    cases cs with
    | nil => rfl
    | cons c cs =>
      calc correlate (List.replicate (n + 1) 0) (c :: cs)
          = sampleValue 0 * c + correlate (List.replicate n 0) cs := rfl
        _ = 0 := by rw [ih, sampleValue_zero, zero_mul, add_zero]

/-- A sample before which there was none meets the first coefficient only. -/
theorem correlate_firstSample (x : Sample) (n : Nat) (cs : List Int) :
    correlate (x :: List.replicate n 0) cs = sampleValue x * cs.headD 0 := by
  cases cs with
  | nil => simp
  | cons c cs => rw [correlate, correlate_zeros, add_zero, List.headD_cons]

/-! ## The widths (41 R134, R136 to R139) -/

/-- An energy of a delay line of at most eight samples, however long the ROMs are (41 R136). -/
theorem toneEnergy_energyOk_of_line {xs : List Sample} {ci cq : List Int} (hxs : xs.length ≤ 8)
    (hi : ∀ k ∈ ci, -127 ≤ k ∧ k ≤ 127) (hq : ∀ k ∈ cq, -127 ≤ k ∧ k ≤ 127) : energyOk (toneEnergy ci cq xs) := by
  have htake : toneEnergy (ci.take xs.length) (cq.take xs.length) xs = toneEnergy ci cq xs := by
    simp only [toneEnergy, correlate_take]
  rw [← htake]
  exact toneEnergy_energyOk xs (fun k hk => hi k (List.mem_of_mem_take hk)) (fun k hk => hq k (List.mem_of_mem_take hk))
    ((List.length_take_le ..).trans hxs) ((List.length_take_le ..).trans hxs)

/-- Settles O31: the bound of each energy gives that of their difference, and the bound of each difference, taken with
its margin of one, that of a sum of at least one. -/
theorem toneEnergyFitsItsWidth : Obligations.ToneEnergyFitsItsWidth := by
  refine ⟨fun xs ci cq si sq hxs hk => ?_, fun dl hne hdl => ?_⟩
  · simp only [List.forall_mem_append] at hk
    obtain ⟨⟨⟨hci, hcq⟩, hsi⟩, hsq⟩ := hk
    have hem := toneEnergy_energyOk_of_line hxs hci hcq
    have hes := toneEnergy_energyOk_of_line hxs hsi hsq
    have hd := differenceOk_sub hem hes
    simp only [toneEnergy_eq] at hem hd
    exact ⟨hem.1, hem.2, hd⟩
  · have hpos : 0 < dl.length := List.length_pos_iff.2 hne
    have hsum := abs_lineSum_le dl hdl
    rw [lineSum_eq_sum] at hsum
    omega

/-! ## DISC.STEP (41 R130, R131, R140, R142) -/

theorem romsOf_ref {c : Config} {r : Roms} (h : c.DISC = .ref r) : romsOf c = r := by simp [romsOf, h]

theorem isRef_of_ref {c : Config} {r : Roms} (h : c.DISC = .ref r) : isRef c = true := (isRef_iff c).2 ⟨r, h⟩

theorem runDiscStep_of_ref {s : State} {r : Roms} (x : Sample) (h : s.cfg.DISC = .ref r) :
    runDiscStep x s = refStep x s := by simp only [runDiscStep, h]

theorem runDiscStep_of_ident {s : State} (x : Sample) (h : s.cfg.DISC = .ident) :
    runDiscStep x s = identStep x s := by simp only [runDiscStep, h]

theorem runDiscStep_of_other {s : State} {n width : Nat} (x : Sample) (h : s.cfg.DISC = .other n width) :
    runDiscStep x s = otherStep n width x s := by simp only [runDiscStep, h]

/-- Settles O28: `refStep` chains the five parts, each of which reads what the one before it wrote. -/
theorem referenceDiscriminatorStep : Obligations.ReferenceDiscriminatorStep := by
  intro x s r h
  simp only [← toneEnergy_eq, ← lineSum_eq_sum, ← romsOf_ref h]
  exact congrArg Host.Outcome.next (runDiscStep_of_ref x h)

/-- `ceilLog2` is the least such exponent. -/
theorem two_pow_ceilLog2_lt {n : Nat} (hn : 0 < n) : 2 ^ ceilLog2 n < 2 * n := by
  unfold ceilLog2
  split
  case isTrue => omega
  case isFalse h =>
    have hlog : 2 ^ Nat.log2 (n - 1) ≤ n - 1 := Nat.log2_self_le (by omega)
    rw [Nat.pow_succ]
    omega

/-- Settles O29: the branches of DISC.STEP, and then of `YW`. -/
theorem otherDiscriminatorsStep : Obligations.OtherDiscriminatorsStep :=
  ⟨fun x _ h => congrArg Host.Outcome.next (runDiscStep_of_ident x h),
    fun x _ _ _ h => congrArg Host.Outcome.next (runDiscStep_of_other x h),
    fun c => ⟨fun _ h => ⟨YW_of_isRef (isRef_of_ref h), le_two_pow_ceilLog2 c.L, two_pow_ceilLog2_lt (L_pos c)⟩,
      YW_of_ident, fun _ _ => YW_of_other⟩⟩

/-! ## The parts of `DISC_REF` on their own (41 R136 to R139) -/

/-- Settles O30: each part is selected, as `DISC` is `DISC_REF`, and answers its result. -/
theorem partsOfTheReferenceDiscriminator : Obligations.PartsOfTheReferenceDiscriminator := by
  intro s r h
  simp only [← toneEnergy_eq, ← lineSum_eq_sum, ← romsOf_ref h]
  have hperform (u : State) : performIf (isRef s.cfg) u s = .next u := by rw [isRef_of_ref h, performIf_true]
  exact ⟨hperform (runMfMark s), hperform (runMfSpace s), hperform (runDiff s), hperform (runPostf s)⟩

/-! ## The first output of a session (41 R140) -/

/-- Two tones whose correlators begin with the same coefficients are as strong in the first sample of a session. -/
theorem toneEnergy_firstSample_congr {ci cq si sq : List Int} (x : Sample) (n : Nat) (hi : ci.headD 0 = si.headD 0)
    (hq : cq.headD 0 = sq.headD 0) :
    toneEnergy ci cq (x :: List.replicate n 0) = toneEnergy si sq (x :: List.replicate n 0) := by
  simp only [toneEnergy, correlate_firstSample, hi, hq]

/-- A difference of 0 that enters a delay line of zeros leaves the sum 0 (41 R139). -/
theorem lineSum_shiftLine_zeros (n m : Nat) : lineSum (shiftLine n 0 (List.replicate m 0)) = 0 := by
  simp [lineSum_eq_sum, shiftLine, List.take_replicate]

/-- From the reset delay lines the first output is 0, for all ROMs of which both tones begin with the same
coefficients. -/
theorem refStep_y_of_resetDisc {s : State} {r : Roms} (x : Sample) (h : s.cfg.DISC = .ref r)
    (hreset : s.disc = resetDisc s.cfg) (hi : r.CM_I.headD 0 = r.CS_I.headD 0)
    (hq : r.CM_Q.headD 0 = r.CS_Q.headD 0) : (refStep x s).wires.y = 0 := by
  obtain ⟨hxs, hdl⟩ := SampleInput.resetDisc_of_isRef (isRef_of_ref h)
  rw [← hreset] at hxs hdl
  have hline : shiftLine s.cfg.W x s.disc.xs = x :: List.replicate (min (s.cfg.W - 1) s.cfg.W) 0 := by
    rw [shiftLine, hxs, List.take_replicate]
  have heq : toneEnergy r.CM_I r.CM_Q (shiftLine s.cfg.W x s.disc.xs) =
      toneEnergy r.CS_I r.CS_Q (shiftLine s.cfg.W x s.disc.xs) := by
    rw [hline]
    exact toneEnergy_firstSample_congr x _ hi hq
  calc (refStep x s).wires.y
      = lineSum (shiftLine s.cfg.L (toneEnergy r.CM_I r.CM_Q (shiftLine s.cfg.W x s.disc.xs) -
          toneEnergy r.CS_I r.CS_Q (shiftLine s.cfg.W x s.disc.xs)) s.disc.dl) := by rw [← romsOf_ref h]; rfl
    _ = 0 := by rw [heq, sub_self, hdl, lineSum_shiftLine_zeros]

/-- Settles O32: the reference ROMs begin with cosine 127 and sine 0 for both tones. -/
theorem firstReferenceOutputIsZero : Obligations.FirstReferenceOutputIsZero := by
  intro x s t hcfg hreset ht
  have href : s.cfg.DISC = .ref refRoms := by rw [hcfg]; rfl
  refine next_keeps (P := fun u => u.wires.y = 0) ht ?_
  rw [runDiscStep_of_ref x href]
  exact refStep_y_of_resetDisc x href hreset rfl rfl

end Sys2Proof.Discriminator
end

section
/-! PROOFS. The bit-timing PLL (42_pll_bit_timing.md R151 to R158): its operations on their own, and the rounding of
R158 over any number of latches. -/

namespace Sys2Proof.BitTiming
open Sys2Proof Sys2Proof.Machine Sys2Proof.Scope Sys2Proof.Invariants

/-! ## The history and the transition (R151, R152) -/

/-- The operand is read modulo `2 ^ YW` (log 21). -/
theorem two_pow_YW_dvd_yValue_sub (c : Config) (y : YWord) : 2 ^ c.YW ∣ yValue c y - y.toInt := by
  have hdvd : ((2 ^ c.YW : Nat) : Int) ∣ y.toInt.bmod (2 ^ c.YW) - y.toInt := Int.dvd_bmod_sub_self
  exact_mod_cast hdvd

/-- Settles O33: an operand of `YW` bits is its own `YW`-bit value, any other is congruent to it. -/
theorem histShiftShiftsTheHistory : Obligations.HistShiftShiftsTheHistory := by
  refine ⟨fun y s hy hw => ?_, fun y s =>
    ⟨yValue s.cfg y, two_pow_YW_dvd_yValue_sub s.cfg y, sext_fitsWidth y.toInt, rfl⟩⟩
  have hvalue : yValue s.cfg y = y.toInt := sext_of_fitsWidth hw hy
  exact congrArg (fun v => Host.Outcome.next (runHistShift v s)) hvalue

theorem opp_iff (a b : Int) : opp a b = true ↔ (0 < a ∧ b < 0) ∨ (a < 0 ∧ 0 < b) := by
  simp only [opp, Bool.or_eq_true, Bool.and_eq_true, decide_eq_true_eq]

theorem trans_iff (p : Pll) :
    Machine.trans p = true ↔ opp p.x0 p.x1 = true ∨ (p.x1 = 0 ∧ opp p.x0 p.x2 = true) := by
  simp only [Machine.trans, Bool.or_eq_true, Bool.and_eq_true, decide_eq_true_eq]

/-! ## The transition operations and the advance (R153 to R156) -/

theorem exec_pllSnap_of_startTransition {s : State} (hidle : s.frm.fs = .idle)
    (hstart : startTransition s.pll = true) : exec .pllSnap s = .next (runPllSnap s) := by
  simp [exec, execPllSnap, hidle, hstart]

theorem exec_pllNudge_of_trans {s : State} (hfs : s.frm.fs ≠ .idle) (htrans : Machine.trans s.pll = true) :
    exec .pllNudge s = .next (runPllNudge s) := by
  simp [exec, execPllNudge, bne_iff_ne.2 hfs, htrans]

/-- Settles O34: TRANS by its two cases, PLL.HOLD by its row, PLL.SNAP where its condition holds. -/
theorem holdAndSnapInTheIdleFramer : Obligations.HoldAndSnapInTheIdleFramer :=
  ⟨fun p => by rw [trans_iff, opp_iff, opp_iff], fun _ => rfl,
    fun s hidle htrans hneg => exec_pllSnap_of_startTransition hidle ((startTransition_iff s.pll).2 ⟨htrans, hneg⟩)⟩

/-- Settles O35: both operations where the framer is not idle, R155's clamp as a maximum and a minimum. -/
theorem nudgeAndAdvanceInsideAFrame : Obligations.NudgeAndAdvanceInsideAFrame := by
  refine ⟨fun s hfs htrans => ?_, fun s hfs => SampleInput.exec_pllAdv_of_ne_idle hfs⟩
  rw [exec_pllNudge_of_trans hfs htrans, ← clamp_eq _ _ (Int.natCast_nonneg _)]
  rfl

/-- The phase beyond the bound on either side comes nearer by the bound, and that within it goes to 0 (R155). -/
theorem runPllNudge_icont_cases (s : State) :
    ((s.cfg.PLLIDS : Int) < s.pll.icont ∧ (runPllNudge s).pll.icont = s.pll.icont - s.cfg.PLLIDS) ∨
    (s.pll.icont < -(s.cfg.PLLIDS : Int) ∧ (runPllNudge s).pll.icont = s.pll.icont + s.cfg.PLLIDS) ∨
    (|s.pll.icont| ≤ s.cfg.PLLIDS ∧ (runPllNudge s).pll.icont = 0) := by
  have hclamp := clamp_eq s.pll.icont s.cfg.PLLIDS (Int.natCast_nonneg _)
  simp only [runPllNudge, State.setPll_pll, hclamp, abs_le]
  omega

/-- Settles O36: beyond the bound the step is `PLLIDS` towards 0, within it the whole phase. -/
theorem nudgeMovesTowardZero : Obligations.NudgeMovesTowardZero := by
  intro s t hfs htrans h
  rw [exec_pllNudge_of_trans hfs htrans] at h
  cases h
  simp only [abs_eq_max_neg]
  rcases runPllNudge_icont_cases s with ⟨hbeyond, hicont⟩ | ⟨hbeyond, hicont⟩ | ⟨hwithin, hicont⟩
  · omega
  · omega
  · rw [abs_eq_max_neg] at hwithin
    omega

/-! ## The latch (R157) -/

/-- The phase less one cycle. -/
def lessOneCycle (c : Config) (p : Pll) : Pll := { p with icont := p.icont - c.PLLISPB }

/-- PLL.LATCH corrects the phase less one cycle, and shows the bit (R157, R158). -/
theorem runPllLatch_eq (s : State) :
    runPllLatch s = emitBit (polarity s.pll.x0) (s.setPll (roundPll s.cfg (lessOneCycle s.cfg s.pll))) := rfl

/-- Settles O37: PLL.LATCH where it is due, with the two cases of PLL.ROUND on the phase less one cycle. -/
theorem latchTakesTheBitAndTheCycle : Obligations.LatchTakesTheBitAndTheCycle := by
  intro s hdue
  rw [SampleInput.exec_pllLatch_of_le hdue, runPllLatch_eq]
  rcases Nat.lt_or_ge (s.pll.rcnt + s.cfg.PLL_ROUND_OFF) s.cfg.PLL_ROUND_PERIOD with hlt | hge
  · rw [if_neg (Nat.not_le.2 hlt), roundPll_of_lt (p := lessOneCycle s.cfg s.pll) hlt]
    rfl
  · rw [if_pos hge, roundPll_of_le (p := lessOneCycle s.cfg s.pll) hge]
    rfl

/-! ## The rounding over any number of corrections (R158)

A correction adds `PLL_ROUND_OFF` to a counter modulo `PLL_ROUND_PERIOD` and takes the carry off the phase. So `n` of
them leave the remainder of `rcnt + n * PLL_ROUND_OFF` in the counter, and have taken the quotient. -/

/-- The rounding counter after `n` corrections from `r`. -/
def counterAfter (c : Config) (n r : Nat) : Nat := (r + n * c.PLL_ROUND_OFF) % c.PLL_ROUND_PERIOD

/-- The extra units that `n` corrections from `r` subtract. -/
def unitsAfter (c : Config) (n r : Nat) : Nat := (r + n * c.PLL_ROUND_OFF) / c.PLL_ROUND_PERIOD

theorem counterAfter_zero {c : Config} {r : Nat} (h : r < c.PLL_ROUND_PERIOD) : counterAfter c 0 r = r := by
  simp [counterAfter, Nat.mod_eq_of_lt h]

theorem unitsAfter_zero {c : Config} {r : Nat} (h : r < c.PLL_ROUND_PERIOD) : unitsAfter c 0 r = 0 := by
  simp [unitsAfter, Nat.div_eq_of_lt h]

theorem counterAfter_lt {c : Config} (hv : c.valid = true) (n r : Nat) : counterAfter c n r < c.PLL_ROUND_PERIOD :=
  Nat.mod_lt _ (PLL_ROUND_PERIOD_pos hv)

theorem counterAfter_add (c : Config) (m n r : Nat) :
    counterAfter c (m + n) r = counterAfter c n (counterAfter c m r) := by
  simp only [counterAfter, Nat.mod_add_mod, Nat.add_mul, Nat.add_assoc]

/-- The corrections of two stretches are those of the whole: the counter carries the remainder over. -/
theorem unitsAfter_add {c : Config} (hv : c.valid = true) (m n r : Nat) :
    unitsAfter c (m + n) r = unitsAfter c m r + unitsAfter c n (counterAfter c m r) := by
  have hdiv := Nat.mod_add_div (r + m * c.PLL_ROUND_OFF) c.PLL_ROUND_PERIOD
  calc unitsAfter c (m + n) r
      = (counterAfter c m r + n * c.PLL_ROUND_OFF + c.PLL_ROUND_PERIOD * unitsAfter c m r) / c.PLL_ROUND_PERIOD := by
        unfold unitsAfter counterAfter
        congr 1
        rw [Nat.add_mul]
        omega
    _ = unitsAfter c m r + unitsAfter c n (counterAfter c m r) := by
        rw [Nat.add_mul_div_left _ _ (PLL_ROUND_PERIOD_pos hv), Nat.add_comm]
        rfl

/-- A whole period brings the counter back. -/
theorem counterAfter_period {c : Config} {r : Nat} (h : r < c.PLL_ROUND_PERIOD) :
    counterAfter c c.PLL_ROUND_PERIOD r = r := by
  rw [counterAfter, Nat.add_mul_mod_self_left, Nat.mod_eq_of_lt h]

theorem unitsAfter_period {c : Config} {r : Nat} (h : r < c.PLL_ROUND_PERIOD) :
    unitsAfter c c.PLL_ROUND_PERIOD r = c.PLL_ROUND_OFF := by
  rw [unitsAfter, Nat.add_mul_div_left _ _ (Nat.zero_lt_of_lt h), Nat.div_eq_of_lt h, Nat.zero_add]

/-- The units taken differ from the exact share by what the counter holds before and after, both below one period. -/
theorem abs_unitsAfter_sub_lt {c : Config} {r : Nat} (h : r < c.PLL_ROUND_PERIOD) (n : Nat) :
    |(c.PLL_ROUND_PERIOD * unitsAfter c n r - n * c.PLL_ROUND_OFF : Int)| < c.PLL_ROUND_PERIOD := by
  have hlt : counterAfter c n r < c.PLL_ROUND_PERIOD := Nat.mod_lt _ (Nat.zero_lt_of_lt h)
  have hdiv : counterAfter c n r + c.PLL_ROUND_PERIOD * unitsAfter c n r = r + n * c.PLL_ROUND_OFF :=
    Nat.mod_add_div ..
  zify at hdiv hlt h
  rw [abs_lt]
  constructor <;> linarith

/-- The PLL after `n` corrections in a row. -/
def corrected (c : Config) (n : Nat) (p : Pll) : Pll :=
  { p with rcnt := counterAfter c n p.rcnt, icont := p.icont - unitsAfter c n p.rcnt }

/-- A correction is division with remainder: offset and counter are both below the period, so the quotient is 0 or 1. -/
theorem roundPll_eq_corrected {c : Config} {p : Pll} (hv : c.valid = true) (h : p.rcnt < c.PLL_ROUND_PERIOD) :
    roundPll c p = corrected c 1 p := by
  have hoff := PLL_ROUND_OFF_lt_PERIOD (BAUD_pos hv)
  rcases Nat.lt_or_ge (p.rcnt + c.PLL_ROUND_OFF) c.PLL_ROUND_PERIOD with hlt | hge
  · simp [roundPll_of_lt hlt, corrected, counterAfter, unitsAfter, Nat.mod_eq_of_lt hlt, Nat.div_eq_of_lt hlt]
  · have hrest : p.rcnt + c.PLL_ROUND_OFF - c.PLL_ROUND_PERIOD < c.PLL_ROUND_PERIOD := by omega
    have hmod : (p.rcnt + c.PLL_ROUND_OFF) % c.PLL_ROUND_PERIOD = p.rcnt + c.PLL_ROUND_OFF - c.PLL_ROUND_PERIOD := by
      rw [Nat.mod_eq_sub_mod hge, Nat.mod_eq_of_lt hrest]
    have hdiv : (p.rcnt + c.PLL_ROUND_OFF) / c.PLL_ROUND_PERIOD = 1 := Nat.div_eq_of_lt_le (by omega) (by omega)
    simp [roundPll_of_le hge, corrected, counterAfter, unitsAfter, hmod, hdiv]

theorem corrected_zero {c : Config} {p : Pll} (h : p.rcnt < c.PLL_ROUND_PERIOD) : corrected c 0 p = p := by
  simp [corrected, counterAfter_zero h, unitsAfter_zero h]

theorem corrected_add {c : Config} (hv : c.valid = true) (m n : Nat) (p : Pll) :
    corrected c (m + n) p = corrected c n (corrected c m p) := by
  simp [corrected, counterAfter_add, unitsAfter_add hv, sub_sub]

/-- PLL.ROUND presented `n` times in a row (log 23). -/
theorem performAll_replicate_pllRound {s : State} (hv : s.cfg.valid = true)
    (h : s.pll.rcnt < s.cfg.PLL_ROUND_PERIOD) (n : Nat) :
    performAll (List.replicate n .pllRound) s = .next (s.setPll (corrected s.cfg n s.pll)) := by
  induction n generalizing s with
  | zero => rw [corrected_zero h]; rfl
  | succ n ih =>
    have hfirst : exec .pllRound s = .next (s.setPll (corrected s.cfg 1 s.pll)) :=
      congrArg (fun p => Host.Outcome.next (s.setPll p)) (roundPll_eq_corrected hv h)
    have hrest := ih (s := s.setPll (corrected s.cfg 1 s.pll)) hv (counterAfter_lt hv ..)
    rw [List.replicate_succ, performAll_cons hfirst, hrest, Nat.add_comm, corrected_add hv]
    rfl

/-! ## The rounding over a run (R158, 10_state.md R28) -/

theorem latches_eq_true_iff (i : Instr) (s : State) :
    latches i s = true ↔ i = .pllLatch ∧ (s.cfg.PLLISPB2 : Int) ≤ s.pll.icont := by
  rw [latches, Bool.and_eq_true, beq_iff_eq, latchDue_iff]

theorem runFrData_pll (b : Bool) (s : State) : (runFrData b s).pll = s.pll := by
  unfold runFrData
  split <;> rfl

theorem runFrStopOk_pll (s : State) : (runFrStopOk s).pll = s.pll := by
  unfold runFrStopOk
  split <;> rfl

/-- The rounding counter of `t` is that of `s`. -/
def SameCounter (s t : State) : Prop := t.pll.rcnt = s.pll.rcnt

theorem execPush_sameCounter {x : Sample} {s t : State} (h : execPush x s = .next t) : SameCounter s t := by
  refine next_keeps h ?_
  split <;> rfl

/-- Only a latch writes the rounding counter, but for PLL.ROUND on its own and what loads it (10_state.md R28). -/
theorem exec_sameCounter_of_not_latches {i : Instr} {s t : State} (hi : keepsRounding i = true)
    (hlatch : latches i s = false) (h : exec i s = .next t) : SameCounter s t := by
  have hself : SameCounter s s := rfl
  cases i
  case start | pop | pllSnap | pllRound => cases hi
  case frame v =>
    obtain ⟨-, -, -, hpll, -⟩ := lineBits_frame true (frameBits s.cfg.NSTOP v) (quiet s)
    exact next_keeps h (congrArg Pll.rcnt hpll)
  case push x => exact execPush_sameCounter h
  case discStep x =>
    obtain ⟨-, -, hpll, -⟩ := runDiscStep_frame x s
    exact next_keeps h (congrArg Pll.rcnt hpll)
  case pllLatch =>
    have hnot : latchDue s.cfg s.pll = false := hlatch
    exact performIf_keeps h (fun hdue => Bool.noConfusion (hnot.symm.trans hdue)) hself
  case frData b => exact performIf_keeps h (fun _ => congrArg Pll.rcnt (runFrData_pll b s)) hself
  case frStopOk => exact performIf_keeps h (fun _ => congrArg Pll.rcnt (runFrStopOk_pll s)) hself
  case rdst | rdmb | histShift | pllHold | extract => exact next_keeps h rfl
  all_goals exact performIf_keeps h (fun _ => rfl) hself

/-- A latch corrects the phase less one cycle once. -/
theorem exec_pll_of_latches {i : Instr} {s t : State} (hv : s.cfg.valid = true)
    (hr : s.pll.rcnt < s.cfg.PLL_ROUND_PERIOD) (hlatch : latches i s = true) (h : exec i s = .next t) :
    t.pll = corrected s.cfg 1 (lessOneCycle s.cfg s.pll) := by
  obtain ⟨rfl, hdue⟩ := (latches_eq_true_iff i s).1 hlatch
  rw [SampleInput.exec_pllLatch_of_le hdue] at h
  cases h
  exact roundPll_eq_corrected (p := lessOneCycle s.cfg s.pll) hv hr

/-- After a run the counter and the extra units are those of as many corrections as it latches bits: one for a
latch, none for any other operation of it. -/
theorem rounding_of_performAll {is : List Instr} {s t : State} (hv : s.cfg.valid = true)
    (hr : s.pll.rcnt < s.cfg.PLL_ROUND_PERIOD) (his : is.all keepsRounding = true)
    (h : performAll is s = .next t) :
    t.pll.rcnt = counterAfter s.cfg (latchesIn is s) s.pll.rcnt ∧
    extraUnitsIn is s = unitsAfter s.cfg (latchesIn is s) s.pll.rcnt := by
  induction is generalizing s with
  | nil =>
    cases h
    exact ⟨(counterAfter_zero hr).symm, congrArg Nat.cast (unitsAfter_zero hr).symm⟩
  | cons i is ih =>
    obtain ⟨u, hu⟩ := exec_next i s
    obtain ⟨hcfg, -⟩ := exec_sameBuild hu
    rw [List.all_cons, Bool.and_eq_true] at his
    obtain ⟨hi, his⟩ := his
    rw [performAll_cons hu] at h
    rw [latchesIn_cons hu, extraUnitsIn_cons hu]
    cases hlatch : latches i s with
    | true =>
      have hpll := exec_pll_of_latches hv hr hlatch hu
      have hrcnt : u.pll.rcnt = counterAfter s.cfg 1 s.pll.rcnt := by rw [hpll]; rfl
      have hicont : u.pll.icont = s.pll.icont - s.cfg.PLLISPB - unitsAfter s.cfg 1 s.pll.rcnt := by rw [hpll]; rfl
      have ih := ih (hcfg ▸ hv) (by rw [hrcnt, hcfg]; exact counterAfter_lt hv ..) his h
      rw [hcfg, hrcnt] at ih
      obtain ⟨ihcounter, ihunits⟩ := ih
      rw [if_pos rfl, if_pos rfl, counterAfter_add, unitsAfter_add hv, hicont, ihunits]
      exact ⟨ihcounter, by push_cast; ring⟩
    | false =>
      have hrcnt : u.pll.rcnt = s.pll.rcnt := exec_sameCounter_of_not_latches hi hlatch hu
      have ih := ih (hcfg ▸ hv) (by rwa [hrcnt, hcfg]) his h
      rw [hcfg, hrcnt] at ih
      simpa using ih

/-- Settles O38: PLL.ROUND by its two cases; a period of corrections, in a row or one at each latch of a run, by the
division with remainder. -/
theorem roundingIsExactOverItsPeriod : Obligations.RoundingIsExactOverItsPeriod := by
  refine ⟨fun s => ?_, fun s hv hr => ?_, fun s t is hv hr his h => ?_⟩
  · refine congrArg (fun p => Host.Outcome.next (s.setPll p)) ?_
    rcases Nat.lt_or_ge (s.pll.rcnt + s.cfg.PLL_ROUND_OFF) s.cfg.PLL_ROUND_PERIOD with hlt | hge
    · rw [roundPll_of_lt hlt, if_neg (Nat.not_le.2 hlt), if_neg (Nat.not_le.2 hlt)]
    · rw [roundPll_of_le hge, if_pos hge, if_pos hge]
  · rw [performAll_replicate_pllRound hv hr, corrected, counterAfter_period hr, unitsAfter_period hr]
    rfl
  · obtain ⟨hcounter, hunits⟩ := rounding_of_performAll hv hr his h
    refine ⟨hcounter, hunits, ?_, fun hperiod => ?_⟩
    · rw [hunits]
      exact abs_unitsAfter_sub_lt hr _
    · rw [hunits, hcounter, hperiod, unitsAfter_period hr, counterAfter_period hr]
      exact ⟨rfl, rfl⟩

end Sys2Proof.BitTiming
end

section
/-! PROOFS. The byte framer's five operations one by one (43_byte_framer.md R170 to R176): each in its state, the
decoder operation that the last stop bit selects, and FRAMER as the choice among them. -/

namespace Sys2Proof.ByteFramer
open Sys2Proof Sys2Proof.Machine Sys2Proof.LineFrame Sys2Proof.SampleInput

/-- A framer row is performed in its state (43 R170). -/
theorem performIf_fs_selected {f : FState} {u s : State} (h : s.frm.fs = f) :
    performIf (s.frm.fs == f) u s = .next u := by
  rw [beq_iff_eq.2 h, performIf_true]

/-- Settles O41: each operation in its state. -/
theorem startAndBadStopBits : Obligations.StartAndBadStopBits :=
  ⟨fun _ hstart => ⟨performIf_fs_selected hstart, performIf_fs_selected hstart⟩,
    fun _ hstop => performIf_fs_selected hstop⟩

/-! ## The data bits (R173) -/

/-- The register after a data bit: the bit, then the upper seven bits of the old register. -/
theorem shiftIn_eq_append (b : Bool) (sr : Byte) : shiftIn b sr = BitVec.ofBool b ++ sr.extractLsb' 1 7 := by
  refine BitVec.eq_of_getElem_eq fun i hi => ?_
  rw [getElem_shiftIn b sr hi, BitVec.getElem_append]
  by_cases hlow : i < 7
  · rw [dif_pos (by omega), dif_pos hlow, BitVec.getElem_extractLsb', Nat.add_comm 1 i,
      BitVec.getLsbD_eq_getElem (by omega)]
  · rw [dif_neg (by omega), dif_neg hlow, BitVec.getElem_ofBool]

/-- Settles O42: the eighth bit and an earlier one. -/
theorem dataBitEntersTheShiftRegister : Obligations.DataBitEntersTheShiftRegister := by
  intro b s hdata
  have hexec : exec (.frData b) s = .next (runFrData b s) := performIf_fs_selected hdata
  rw [hexec, ← shiftIn_eq_append]
  by_cases hnb : s.frm.nb + 1 = 8
  · rw [runFrData_last b hnb, if_pos hnb, hnb]
    rfl
  · rw [runFrData_more b hnb, if_neg hnb]
    rfl

/-! ## The decoder operation that a byte selects (44 R190) -/

theorem selectDecoder_of_terminal {ds : DState} (full : Bool) (v : Byte) (h : terminal ds = true) :
    selectDecoder ds full v = none := by
  cases ds with
  | mt | ml | dt | dl | data | ck => cases h
  | complete | ckfail | unknown | malformed => rfl

theorem selectDecoder_of_full {ds : DState} (v : Byte) (h : terminal ds = false) :
    selectDecoder ds true v = some (.ovf v) := by
  cases ds with
  | mt | ml | dt | dl | data | ck => rfl
  | complete | ckfail | unknown | malformed => cases h

/-- A byte that is no known type ends the message (44 R197). -/
theorem afterAppend_mt_of_other {v : Byte} (hmdmf : v ≠ 0x80) (hsdmf : v ≠ 0x04) (d : Decoder) :
    afterAppend .mt v d = unknownType d := by
  rw [afterAppend, if_neg hmdmf, if_neg hsdmf]

/-- A byte that is no known data type ends the message (44 R204). -/
theorem afterAppend_dt_of_other {v : Byte} (hdate : v ≠ 0x01) (hnumber : v ≠ 0x02) (hnonumber : v ≠ 0x04)
    (hname : v ≠ 0x07) (hnoname : v ≠ 0x08) (d : Decoder) : afterAppend .dt v d = unknownGroup d := by
  rw [afterAppend, if_neg hdate, if_neg hnumber, if_neg hnonumber, if_neg hname, if_neg hnoname]

/-- With room in the buffer the selected operation is the row of the state and the byte: APPEND, then what DECODER
does in that state (44 R190, R194). -/
theorem exec_of_selectDecoder {ds : DState} {v : Byte} {i : Instr} (h : selectDecoder ds false v = some i)
    (s : State) : exec i s = decoderRow ds v (afterAppend ds v) s := by
  cases ds with
  | complete | ckfail | unknown | malformed => cases h
  | ml | dl | data | ck => cases h; rfl
  | mt =>
    cases h
    iterate 2
      split
      case isTrue hv => subst hv; rfl
    rename_i hmdmf hsdmf
    exact congrArg (decoderRow .mt v · s) (funext fun d => (afterAppend_mt_of_other hmdmf hsdmf d).symm)
  | dt =>
    cases h
    iterate 5
      split
      case isTrue hv => subst hv; rfl
    rename_i hdate hnumber hnonumber hname hnoname
    exact congrArg (decoderRow .dt v · s)
      (funext fun d => (afterAppend_dt_of_other hdate hnumber hnonumber hname hnoname d).symm)

/-- A live decoder with room in the buffer has a row for every byte (44 R194). -/
theorem exists_selectDecoder {ds : DState} (v : Byte) (h : terminal ds = false) :
    ∃ i, selectDecoder ds false v = some i := by
  cases ds with
  | mt | ml | dt | dl | data | ck => exact ⟨_, rfl⟩
  | complete | ckfail | unknown | malformed => cases h

/-- DECODER is the decoder operation that the state and the byte select, none in a terminal state (44 R190, R191,
R193). -/
theorem performs_selectDecoder (v : Byte) (s : State) :
    Performs (selectDecoder s.dec.ds (decide (s.dec.msglen.toNat = s.cfg.MSG_MAX)) v) s (runDecoder v s) := by
  unfold runDecoder
  rcases decodeByteEvent_cases s.cfg v s.dec with ⟨hend, hdec⟩ | ⟨hlive, hfull, hdec⟩ | ⟨hlive, hroom, hdec⟩
  · rw [selectDecoder_of_terminal _ v hend, hdec]
    rfl
  · rw [decide_eq_true hfull, selectDecoder_of_full v hlive, hdec]
    simp [Performs, exec, execOvf, hlive, bufferFull, hfull]
  · obtain ⟨i, hi⟩ := exists_selectDecoder v hlive
    rw [decide_eq_false hroom, hi, hdec]
    exact (exec_of_selectDecoder hi s).trans (decoderRow_performed v _ rfl hlive hroom)

/-! ## The stop bits (R175) -/

/-- Settles O43: an earlier stop bit counts; the last one performs the decoder operation selected after it. -/
theorem lastStopBitEmitsAndDecodes : Obligations.LastStopBitEmitsAndDecodes := by
  intro s hstop
  have hexec : exec .frStopOk s = .next (runFrStopOk s) := performIf_fs_selected hstop
  refine ⟨fun hmore => ?_, fun hlast => ?_⟩
  · rw [hexec, runFrStopOk_more hmore]
    rfl
  · intro e
    have hdecoder := performs_selectDecoder s.frm.sr e
    rw [hexec, runFrStopOk_last hlast]
    split
    case h_1 i hi =>
      rw [hi] at hdecoder
      exact hdecoder.symm
    case h_2 hnone =>
      rw [hnone] at hdecoder
      exact congrArg Host.Outcome.next hdecoder

/-! ## FRAMER as the choice among the operations (R170) -/

/-- The operation that the framer state and the bit select is FRAMER. -/
theorem exec_of_selectFramer {b : Bool} {s : State} {i : Instr} (h : selectFramer s.frm.fs b = some i) :
    exec i s = .next (runFramer b s) := by
  have hframer := performs_selectFramer b s
  rwa [h] at hframer

/-- Settles O44: the rows of R170's table, each selected in its state by its bit. -/
theorem framerTableSelectsTheOperation : Obligations.FramerTableSelectsTheOperation := by
  intro b s
  refine ⟨fun hidle => ?idle, fun hstart hb => ?_, fun hstart hb => ?_, fun hdata => ?_, fun hstop hb => ?_,
    fun hstop hb => ?_, fun _ => exec_of_selectFramer⟩
  case idle => simp [selectFramer, runFramer, hidle]
  all_goals exact exec_of_selectFramer (by simp [selectFramer, *])

end Sys2Proof.ByteFramer
end

section
/-! PROOFS. The message decoder row by row (44_message_decoder.md R190 to R209): what each operation leaves of its
byte, DECODER as the choice among them, and the outcome that stays. -/

namespace Sys2Proof.DecoderRows
open Sys2Proof Sys2Proof.Machine Sys2Proof.Invariants Sys2Proof.LineFrame Sys2Proof.ByteFramer

/-! ## APPEND and OVF (R192, R193) -/

/-- APPEND sums every byte but the checksum byte. -/
theorem appendByte_of_ne_ck {d : Decoder} (v : Byte) (h : d.ds ≠ .ck) : appendByte v d = storedAndSummed v d := by
  rw [appendByte, if_neg h]
  rfl

theorem appendByte_of_ck {d : Decoder} (v : Byte) (h : d.ds = .ck) : appendByte v d = storedOnly v d := by
  rw [appendByte, if_pos h]
  rfl

theorem bufferFull_eq_false {c : Config} {d : Decoder} (h : d.msglen.toNat ≠ c.MSG_MAX) : bufferFull c d = false :=
  decide_eq_false h

/-- Settles O46: OVF is selected, and raises. -/
theorem overflowRaisesMalformed : Obligations.OverflowRaisesMalformed := by
  intro v s hlive hfull
  have hsel : (!terminal s.dec.ds && bufferFull s.cfg s.dec) = true := by
    rw [hlive, (bufferFull_iff ..).2 hfull]
    rfl
  rw [exec, execOvf, hsel]
  rfl

/-- Settles O47: APPEND is selected, and sums its byte outside `DS_CK`. -/
theorem appendStoresAndSums : Obligations.AppendStoresAndSums := by
  intro v s hlive hroom
  have hexec : exec (.append v) s = .next (s.setDec (appendByte v s.dec)) := by
    rw [exec, execAppend, hlive, bufferFull_eq_false hroom]
    rfl
  rw [hexec]
  split
  case isTrue hck => rw [appendByte_of_ck v hck]; rfl
  case isFalse hck => rw [appendByte_of_ne_ck v hck]; rfl

/-! ## A row that its state and a byte select (R190, R194) -/

/-- A row outside `DS_CK`: the byte stored and summed, then the row's own pseudocode. -/
theorem decoderRow_of_byteMeets {st : DState} {s : State} (v : Byte) (body : Decoder → Decoder) (h : byteMeets st s)
    (hlive : terminal st = false) (hck : st ≠ .ck) :
    decoderRow st v body s = .next { s with dec := body (storedAndSummed v s.dec) } := by
  obtain ⟨hds, hroom⟩ := h
  rw [decoderRow_performed v body hds hlive hroom, appendByte_of_ne_ck v (by rwa [hds])]
  rfl

/-- The row of `DS_CK`: the byte stored and not summed. -/
theorem decoderRow_of_byteMeets_ck {s : State} (v : Byte) (body : Decoder → Decoder) (h : byteMeets .ck s) :
    decoderRow .ck v body s = .next { s with dec := body (storedOnly v s.dec) } := by
  obtain ⟨hds, hroom⟩ := h
  rw [decoderRow_performed v body hds rfl hroom, appendByte_of_ck v hds]
  rfl

/-! ## The message type and the length byte (R195 to R198) -/

theorem exec_mtOther {s : State} (v : Byte) (h : byteMeets .mt s) :
    exec (.mtOther v) s = .next { s with dec := { storedAndSummed v s.dec with ds := .unknown } } :=
  decoderRow_of_byteMeets v unknownType h rfl (by decide)

/-- Settles O48. -/
theorem messageTypeMarksTheFormat : Obligations.MessageTypeMarksTheFormat := fun _ h =>
  ⟨decoderRow_of_byteMeets 0x80 markMdmf h rfl (by decide), decoderRow_of_byteMeets 0x04 markSdmf h rfl (by decide)⟩

/-- The only byte of a buffer is read back (20_memory.md R62). -/
theorem memRead_storedAndSummed_resetDecoder (v : Byte) : memRead (storedAndSummed v resetDecoder) 0 = v := by
  have hread : Memory.read (Memory.write [] 0 v) 0 = v := Memory.read_write_self 0 v Memory.wf_nil
  exact hread

/-- Settles O49: both rows raise UnknownFormat; on the decoder of a new session every other element has its value
of R49, and the buffer holds the byte. -/
theorem unknownBytesEndTheSession : Obligations.UnknownBytesEndTheSession := by
  refine ⟨fun v _ => exec_mtOther v, fun v s t hreset hmax ht => ?_,
    fun v _ h => decoderRow_of_byteMeets v unknownGroup h rfl (by decide)⟩
  have hmeets : byteMeets .mt s := by
    rw [byteMeets, hreset]
    exact ⟨rfl, by simp [resetDecoder]; omega⟩
  rw [exec_mtOther v hmeets, hreset] at ht
  cases ht
  exact ⟨rfl, rfl, rfl, rfl, rfl, rfl, rfl, BitVec.zero_add v, memRead_storedAndSummed_resetDecoder v⟩

/-- Settles O50. -/
theorem lengthByteIsRecorded : Obligations.LengthByteIsRecorded := fun v _ h =>
  decoderRow_of_byteMeets v (recordLength v) h rfl (by decide)

/-! ## The groups (R199 to R207) -/

/-- Settles O51: the five rows of `DS_DT` with a byte of their own. -/
theorem dataTypeSetsItsFlag : Obligations.DataTypeSetsItsFlag := fun _ h =>
  have row := fun v body => decoderRow_of_byteMeets v body h rfl (by decide)
  ⟨row 0x01 dateGroup, row 0x02 numberGroup, row 0x04 noNumberGroup, row 0x07 nameGroup, row 0x08 noNameGroup⟩

/-- The completion test, its two cases as propositions (R206). -/
theorem messageDone_iff (d : Decoder) : messageDone d = true ↔ fieldsComplete d := by
  simp only [messageDone, fieldsComplete, Bool.or_eq_true, Bool.and_eq_true, beq_iff_eq, and_assoc]

theorem fieldDone_of_fieldsComplete {d : Decoder} (h : fieldsComplete d) : fieldDone d = { d with ds := .ck } := by
  rw [fieldDone, if_pos ((messageDone_iff d).2 h)]

theorem fieldDone_of_not_fieldsComplete {d : Decoder} (h : ¬ fieldsComplete d) :
    fieldDone d = { d with ds := .dt } := by
  rw [fieldDone, if_neg (mt (messageDone_iff d).1 h)]

theorem fieldLength_of_ne_zero {v : Byte} (h : v ≠ 0) (d : Decoder) :
    fieldLength v d = { d with cnt := v, ds := .data } := if_neg h

theorem fieldLength_zero (d : Decoder) : fieldLength 0 d = fieldDone { d with cnt := 0 } := if_pos rfl

/-- Settles O52: a byte other than 0 opens the field, a 0 ends it by the completion test, which APPEND does not
change. -/
theorem fieldLengthOpensOrEndsTheField : Obligations.FieldLengthOpensOrEndsTheField := by
  intro v s h
  have hexec : exec (.dlAny v) s = .next { s with dec := fieldLength v (storedAndSummed v s.dec) } :=
    decoderRow_of_byteMeets v (fieldLength v) h rfl (by decide)
  refine ⟨fun hv => ?_, ?_, ?_⟩
  · rw [hexec, fieldLength_of_ne_zero hv]
  · rintro rfl hdone
    have hdone : fieldsComplete { storedAndSummed 0 s.dec with cnt := 0 } := hdone
    rw [hexec, fieldLength_zero, fieldDone_of_fieldsComplete hdone]
  · rintro rfl hdone
    have hdone : ¬ fieldsComplete { storedAndSummed 0 s.dec with cnt := 0 } := hdone
    rw [hexec, fieldLength_zero, fieldDone_of_not_fieldsComplete hdone]

theorem countData_of_ne_one {d : Decoder} (h : d.cnt ≠ 1) : countData d = { d with cnt := d.cnt - 1 } :=
  if_neg fun hzero => h (BitVec.sub_eq_iff_eq_add.1 hzero)

theorem countData_of_eq_one {d : Decoder} (h : d.cnt = 1) : countData d = fieldDone { d with cnt := 0 } := by
  rw [countData, h]
  rfl

/-- Settles O53: the last byte of a field ends it by the completion test. -/
theorem dataByteCountsDown : Obligations.DataByteCountsDown := by
  intro v s h
  have hexec : exec (.dataAny v) s = .next { s with dec := countData (storedAndSummed v s.dec) } :=
    decoderRow_of_byteMeets v countData h rfl (by decide)
  refine ⟨fun hmore => ?_, fun hlast hdone => ?_, fun hlast hdone => ?_⟩
  · have hmore : (storedAndSummed v s.dec).cnt ≠ 1 := hmore
    rw [hexec, countData_of_ne_one hmore]
    rfl
  · have hlast : (storedAndSummed v s.dec).cnt = 1 := hlast
    have hdone : fieldsComplete { storedAndSummed v s.dec with cnt := 0 } := hdone
    rw [hexec, countData_of_eq_one hlast, fieldDone_of_fieldsComplete hdone]
  · have hlast : (storedAndSummed v s.dec).cnt = 1 := hlast
    have hdone : ¬ fieldsComplete { storedAndSummed v s.dec with cnt := 0 } := hdone
    rw [hexec, countData_of_eq_one hlast, fieldDone_of_not_fieldsComplete hdone]

/-! ## The checksum byte (R209) -/

theorem judge_eq (v : Byte) (d : Decoder) : judge v d =
    { d with
      lenbad := lengthDiffers d
      ds := if v.toNat = (256 - d.cks.toNat) % 256 then .complete else .ckfail } := by
  by_cases h : v.toNat = (256 - d.cks.toNat) % 256
  · rw [judge, if_pos ((checksumValid_iff ..).2 h), if_pos h]
    rfl
  · rw [judge, if_neg (mt (checksumValid_iff ..).1 h), if_neg h]
    rfl

/-- Settles O54: the verdict is `judge`'s on the byte stored and not summed. -/
theorem checksumByteDecidesTheOutcome : Obligations.ChecksumByteDecidesTheOutcome := by
  intro v s h
  have hexec : exec (.ckAny v) s = .next { s with dec := judge v (storedOnly v s.dec) } :=
    decoderRow_of_byteMeets_ck v (judge v) h
  rw [hexec, judge_eq]
  rfl

/-! ## DECODER as the choice among the operations (R190) -/

/-- A byte in a terminal state changes nothing (R191). -/
theorem decodeByteEvent_of_terminal {d : Decoder} (c : Config) (v : Byte) (h : terminal d.ds = true) :
    decodeByteEvent c v d = d := if_pos h

/-- A catch-all row is selected only by a byte that no more specific row takes (30_encoding.md R102). -/
theorem wellFormed_of_selectDecoder {ds : DState} {v : Byte} {i : Instr} (h : selectDecoder ds false v = some i) :
    i.wellFormed = true := by
  cases ds with
  | complete | ckfail | unknown | malformed => cases h
  | ml | dl | data | ck => cases h; rfl
  | mt =>
    cases h
    iterate 2
      split
      case isTrue => rfl
    simp_all [Instr.wellFormed, mtTaken]
  | dt =>
    cases h
    iterate 5
      split
      case isTrue => rfl
    simp_all [Instr.wellFormed, dtTaken]

/-- A live decoder has one operation for every byte, OVF where the buffer is full (R190, R193). -/
theorem exists_wellFormed_selectDecoder {ds : DState} (full : Bool) (v : Byte) (h : terminal ds = false) :
    ∃ i, selectDecoder ds full v = some i ∧ i.wellFormed = true := by
  cases full with
  | true => exact ⟨.ovf v, selectDecoder_of_full v h, rfl⟩
  | false =>
    obtain ⟨i, hi⟩ := exists_selectDecoder v h
    exact ⟨i, hi, wellFormed_of_selectDecoder hi⟩

/-- Settles O55: the selection names a well-formed operation in every live state, and DECODER performs it. -/
theorem decoderTableSelectsTheOperation : Obligations.DecoderTableSelectsTheOperation := by
  intro v s
  refine ⟨decodeByteEvent_of_terminal s.cfg v, fun hlive => ?_⟩
  obtain ⟨i, hi, hwf⟩ := exists_wellFormed_selectDecoder (decide (s.dec.msglen.toNat = s.cfg.MSG_MAX)) v hlive
  have hexec := performs_selectDecoder v s
  rw [hi] at hexec
  exact ⟨i, hi, hwf, hexec⟩

/-! ## A terminal outcome stays (R191, 10_state.md R48 item 4) -/

/-- The decoder is the same before and after. -/
def SameDecoder (s t : State) : Prop := t.dec = s.dec

theorem SameDecoder.refl (s : State) : SameDecoder s s := rfl

theorem execPush_sameDecoder {x : Sample} {s t : State} (h : execPush x s = .next t) : SameDecoder s t := by
  refine next_keeps h ?_
  split <;> exact SameDecoder.refl s

theorem runFrData_sameDecoder (b : Bool) (s : State) : SameDecoder s (runFrData b s) := by
  unfold runFrData
  split <;> exact SameDecoder.refl s

/-- What gives the decoder at most a byte gives a terminal one nothing. -/
theorem sameDecoder_of_byteTaken {s t : State} (h : ByteTaken s t) (hend : terminal s.dec.ds = true) :
    SameDecoder s t := by
  rcases h with heq | ⟨-, v, heq⟩
  · exact heq
  · exact heq.trans (decodeByteEvent_of_terminal s.cfg v hend)

/-- No row of the decoder's table is selected in a terminal state. -/
theorem decoderRow_sameDecoder {st : DState} {v : Byte} {body : Decoder → Decoder} {s t : State}
    (h : decoderRow st v body s = .next t) (hend : terminal s.dec.ds = true) : SameDecoder s t := by
  rcases decoderRow_cases h with ⟨hlive, -⟩ | rfl
  · simp [hend] at hlive
  · exact SameDecoder.refl t

theorem exec_sameDecoder {i : Instr} {s t : State} (hi : i ≠ .start) (hend : terminal s.dec.ds = true)
    (h : exec i s = .next t) : SameDecoder s t := by
  have hself := SameDecoder.refl s
  cases i
  case start => exact absurd rfl hi
  case frame v =>
    have hframe : lineBits true (frameBits s.cfg.NSTOP v) (quiet s) = quiet s := lineBits_of_terminal true _ hend
    exact next_keeps h (congrArg State.dec hframe :)
  case push x => exact execPush_sameDecoder h
  case pop => exact performIf_keeps h (fun _ => sameDecoder_of_byteTaken (runPop_byteTaken s) hend) hself
  case discStep x =>
    obtain ⟨-, -, -, -, hdec, -⟩ := runDiscStep_frame x s
    exact next_keeps h hdec
  case frData b => exact performIf_keeps h (fun _ => runFrData_sameDecoder b s) hself
  case frStopOk => exact performIf_keeps h (fun _ => sameDecoder_of_byteTaken (runFrStopOk_byteTaken s) hend) hself
  case ovf v | append v => exact performIf_keeps h (fun hsel => by simp [hend] at hsel) hself
  case rdst | rdmb | histShift | pllHold | pllRound | extract => exact next_keeps h hself
  case mfMark | mfSpace | diff | postf | pllSnap | pllNudge | pllAdv | pllLatch | frStartOk | frStartFalse
      | frStopBad =>
    exact performIf_keeps h (fun _ => SameDecoder.refl s) hself
  all_goals exact decoderRow_sameDecoder h hend

/-- Settles O12: only POP and FR.STOP.OK hand the decoder a byte, which a terminal one ignores; the rows are not
selected there. -/
theorem terminalOutcomeStaysUntilStart : Obligations.TerminalOutcomeStaysUntilStart :=
  fun _ _ _ hi hend h => exec_sameDecoder hi hend h

end Sys2Proof.DecoderRows
end

section
/-! PROOFS. DECODER over a sequence of bytes (44_message_decoder.md R190 to R193, R209, R211): while the decoder is
live every byte so far has been appended, so the buffer holds the bytes and `cks` their sum; and the verdict on the
checksum byte. -/

namespace Sys2Proof.DecoderRuns
open Sys2Proof Sys2Proof.Machine Sys2Proof.Invariants Sys2Proof.DecoderRows

/-! ## A run that has not ended -/

theorem decodeBytes_singleton (c : Config) (v : Byte) (d : Decoder) : decodeBytes c [v] d = decodeByteEvent c v d := rfl

/-- A byte after which the decoder is live was appended and summed: OVF and the checksum byte end the run. -/
theorem decodeByteEvent_live {c : Config} {v : Byte} {d : Decoder} (h : terminal (decodeByteEvent c v d).ds = false) :
    terminal d.ds = false ∧ d.ds ≠ .ck ∧ d.msglen.toNat ≠ c.MSG_MAX ∧
    decodeByteEvent c v d = afterAppend d.ds v (appendByte v d) := by
  rcases decodeByteEvent_cases c v d with ⟨hend, heq⟩ | ⟨-, -, heq⟩ | ⟨hlive, hroom, heq⟩ <;> rw [heq] at h
  · simp [hend] at h
  · cases h
  · refine ⟨hlive, fun hck => ?_, hroom, heq⟩
    rw [hck] at h
    obtain ⟨hds | hds, -⟩ := afterAppend_ck v (appendByte v d) <;> rw [hds] at h <;> cases h

/-- What holds at first and is kept by every byte appended and summed holds of every run that has not ended. -/
theorem decodeBytes_live_induction {c : Config} {d₀ : Decoder} {P : List Byte → Decoder → Prop} (hnil : P [] d₀)
    (hbyte : ∀ bs d v, P bs d → d.ds ≠ .ck → d.msglen.toNat ≠ c.MSG_MAX →
      P (bs ++ [v]) (afterAppend d.ds v (appendByte v d)))
    (bs : List Byte) (hlive : terminal (decodeBytes c bs d₀).ds = false) : P bs (decodeBytes c bs d₀) := by
  induction bs using List.reverseRecOn with
  | nil => exact hnil
  | append_singleton bs v ih =>
    rw [decodeBytes_append, decodeBytes_singleton] at hlive ⊢
    obtain ⟨hbefore, hck, hroom, heq⟩ := decodeByteEvent_live hlive
    rw [heq]
    exact hbyte bs _ v (ih hbefore) hck hroom

/-! ## The sum (R192, R211) -/

theorem byteTotal_append (bs cs : List Byte) : byteTotal (bs ++ cs) = byteTotal bs + byteTotal cs := by
  simp [byteTotal]

/-- While the run has not ended `cks` is the sum of its bytes. -/
theorem cks_decodeBytes {c : Config} {bs : List Byte} (hlive : terminal (decodeBytes c bs resetDecoder).ds = false) :
    (decodeBytes c bs resetDecoder).cks = BitVec.ofNat 8 (byteTotal bs) := by
  refine decodeBytes_live_induction (P := fun bs d => d.cks = BitVec.ofNat 8 (byteTotal bs)) rfl
    (fun bs d v hsum hck _ => ?_) bs hlive
  obtain ⟨-, -, hcks⟩ := afterAppend_buffer d.ds v (appendByte v d)
  calc (afterAppend d.ds v (appendByte v d)).cks
      = d.cks + v := hcks.trans (appendByte_cks hck)
    _ = BitVec.ofNat 8 (byteTotal (bs ++ [v])) := by
      rw [hsum, byteTotal_append, BitVec.ofNat_add]
      simp [byteTotal]

/-! ## The verdict (R209, R211) -/

/-- A byte in `DS_CK` with room in the buffer is judged. -/
theorem decodeByteEvent_ck {c : Config} {d : Decoder} (v : Byte) (hck : d.ds = .ck)
    (hroom : d.msglen.toNat ≠ c.MSG_MAX) : decodeByteEvent c v d = judge v (storedOnly v d) := by
  rw [decodeByteEvent, hck, if_neg (by decide), bufferFull_eq_false hroom, if_neg Bool.false_ne_true,
    appendByte_of_ck v hck]
  rfl

/-- The outcome of a run that has reached `DS_CK`, by the byte that follows. -/
theorem ds_decodeBytes_ck {c : Config} {bs : List Byte} (v : Byte) (hck : (decodeBytes c bs resetDecoder).ds = .ck)
    (hroom : (decodeBytes c bs resetDecoder).msglen.toNat ≠ c.MSG_MAX) :
    (decodeBytes c (bs ++ [v]) resetDecoder).ds =
      if v.toNat = (256 - byteTotal bs % 256) % 256 then .complete else .ckfail := by
  have hsum : (storedOnly v (decodeBytes c bs resetDecoder)).cks = BitVec.ofNat 8 (byteTotal bs) :=
    cks_decodeBytes (by rw [hck]; rfl)
  rw [decodeBytes_append, decodeBytes_singleton, decodeByteEvent_ck v hck hroom, judge_eq, hsum, BitVec.toNat_ofNat]

/-- Settles O56: the verdict compares the byte with the sum; on a full buffer the byte is not taken. -/
theorem checksumLaw : Obligations.ChecksumLaw := by
  intro c bs v hck
  refine ⟨fun hroom => ?_, fun hfull => ?_⟩
  · have hds := ds_decodeBytes_ck v hck hroom
    unfold byteTotal at hds
    rw [hds]
    split <;> simp_all
  · rw [decodeBytes_append, decodeBytes_singleton, decodeByteEvent, hck, if_neg (by decide),
      if_pos ((bufferFull_iff ..).2 hfull)]
    rfl

/-! ## The buffer (R192, 20_memory.md R61, R62) -/

theorem messageBytes_eq_map_read (d : Decoder) :
    messageBytes d = (List.range d.msglen.toNat).map (Memory.read d.msgbuf) :=
  List.map_congr_left fun _ ha => if_pos (List.mem_range.1 ha)

theorem length_messageBytes (d : Decoder) : (messageBytes d).length = d.msglen.toNat := by
  rw [messageBytes, List.length_map, List.length_range]

/-- The bytes stand in arrival order. -/
theorem messageBytes_appendByte {c : Config} {d : Decoder} (v : Byte) (hv : c.valid = true) (h : storedOk c d)
    (hroom : d.msglen.toNat ≠ c.MSG_MAX) : messageBytes (appendByte v d) = messageBytes d ++ [v] := by
  rw [messageBytes_eq_map_read, messageBytes_eq_map_read, appendByte_msglen_toNat v hv h hroom, List.range_succ,
    List.map_append, appendByte_msgbuf]
  congr 1
  · exact List.map_congr_left fun a ha => Memory.read_write_ne v (List.mem_range.1 ha).ne
  · exact congrArg (fun u => [u]) (Memory.read_write_self _ v h.canonical)

/-- What a row does after APPEND leaves the message alone. -/
theorem messageBytes_afterAppend (st : DState) (v : Byte) (d : Decoder) :
    messageBytes (afterAppend st v d) = messageBytes d := by
  obtain ⟨hbuf, hlen⟩ := afterAppend_keeps_buffer st v d
  rw [messageBytes_eq_map_read, messageBytes_eq_map_read, hbuf, hlen]

theorem storedOk_resetDecoder (c : Config) : storedOk c resetDecoder :=
  ⟨Nat.zero_le _, Memory.wf_nil, by simp [resetDecoder]⟩

/-- While the run has not ended the buffer holds its bytes, and is sound. -/
theorem messageBytes_decodeBytes {c : Config} {bs : List Byte} (hv : c.valid = true)
    (hlive : terminal (decodeBytes c bs resetDecoder).ds = false) :
    storedOk c (decodeBytes c bs resetDecoder) ∧ messageBytes (decodeBytes c bs resetDecoder) = bs := by
  refine decodeBytes_live_induction (P := fun bs d => storedOk c d ∧ messageBytes d = bs)
    ⟨storedOk_resetDecoder c, rfl⟩ (fun bs d v hP _ hroom => ?_) bs hlive
  obtain ⟨hstored, hbytes⟩ := hP
  obtain ⟨hbuf, hlen⟩ := afterAppend_keeps_buffer d.ds v (appendByte v d)
  refine ⟨(storedOk_appendByte v hv hstored hroom).congr hbuf hlen, ?_⟩
  rw [messageBytes_afterAppend, messageBytes_appendByte v hv hstored hroom, hbytes]

/-- While the run has not ended `msglen` counts its bytes. -/
theorem msglen_decodeBytes {c : Config} {bs : List Byte} (hv : c.valid = true)
    (hlive : terminal (decodeBytes c bs resetDecoder).ds = false) :
    (decodeBytes c bs resetDecoder).msglen.toNat = bs.length := by
  rw [← length_messageBytes, (messageBytes_decodeBytes hv hlive).2]

end Sys2Proof.DecoderRuns
end

section
/-! PROOFS. A whole message (44_message_decoder.md R194 to R209, R214): what the decoder is after its header, after
each group and after its checksum byte, as long as the message fits the buffer. -/

namespace Sys2Proof.Messages
open Sys2Proof Sys2Proof.Machine Sys2Proof.Invariants Sys2Proof.DecoderRows Sys2Proof.DecoderRuns

/-- The length byte of a group announces its body (30_encoding.md R88). -/
theorem toNat_lengthByte {n : Nat} (h : n ≤ 255) : (BitVec.ofNat 8 n).toNat = n := by
  rw [BitVec.toNat_ofNat, Nat.mod_eq_of_lt (by omega)]

/-! ## What the decoder knows of its message -/

/-- The elements that the header and the data types write (R195 to R203). -/
structure Header where
  fmt : Fmt
  mlen : Byte
  nameseen : Bool
  numseen : Bool

def headerOf (d : Decoder) : Header :=
  { fmt := d.fmt, mlen := d.mlen, nameseen := d.nameseen, numseen := d.numseen }

/-- The header after a group of this data type (R199 to R203). -/
def Header.withGroup (h : Header) (t : Byte) : Header :=
  { h with
    nameseen := h.nameseen || t == 0x07 || t == 0x08
    numseen := h.numseen || t == 0x02 || t == 0x04 }

/-- The state after a group, by the completion test (R206). -/
def Header.next (h : Header) : DState :=
  if (h.fmt == .mdmf && h.nameseen && h.numseen) || (h.fmt == .sdmf && h.numseen) then .ck else .dt

theorem ds_fieldDone (d : Decoder) : (fieldDone d).ds = (headerOf d).next := rfl

/-- A decoder in state `st` with this header, whose buffer has room for `room` more bytes. -/
structure Receiving (c : Config) (st : DState) (h : Header) (room : Nat) (d : Decoder) : Prop where
  state : d.ds = st
  header : headerOf d = h
  stored : storedOk c d
  room_le : d.msglen.toNat + room ≤ c.MSG_MAX

theorem receiving_resetDecoder {c : Config} {room : Nat} (hroom : room ≤ c.MSG_MAX) :
    Receiving c .mt { fmt := .none, mlen := 0, nameseen := false, numseen := false } room resetDecoder :=
  ⟨rfl, rfl, storedOk_resetDecoder c, by simpa [resetDecoder] using hroom⟩

section Byte
variable {c : Config} {st : DState} {h : Header} {room : Nat} {d : Decoder}

/-- There is room for a byte that is expected. -/
theorem Receiving.msglen_ne (hr : Receiving c st h (room + 1) d) : d.msglen.toNat ≠ c.MSG_MAX := by
  have := hr.room_le
  omega

theorem Receiving.decodeByteEvent_eq (hr : Receiving c st h (room + 1) d) (v : Byte) (hlive : terminal st = false) :
    decodeByteEvent c v d = afterAppend st v (appendByte v d) := by
  rw [decodeByteEvent, hr.state, hlive, bufferFull_eq_false hr.msglen_ne]
  rfl

/-- One more byte: the row of the state decides what comes next. -/
theorem Receiving.byte (hr : Receiving c st h (room + 1) d) (v : Byte) {st' : DState} {h' : Header}
    (hv : c.valid = true) (hlive : terminal st = false) (hds : (afterAppend st v (appendByte v d)).ds = st')
    (hheader : headerOf (afterAppend st v (appendByte v d)) = h') :
    Receiving c st' h' room (decodeByteEvent c v d) where
  state := by rw [hr.decodeByteEvent_eq v hlive, hds]
  header := by rw [hr.decodeByteEvent_eq v hlive, hheader]
  stored := storedOk_decodeByteEvent v hv hr.stored
  room_le := by
    have := hr.room_le
    rw [hr.decodeByteEvent_eq v hlive, row_msglen v hv hr.stored hr.msglen_ne st]
    omega

/-! ## A group (R199 to R207) -/

/-- A recognised data type sets its flags (R199 to R203). -/
theorem Receiving.dataType (hr : Receiving c .dt h (room + 1) d) {t : Byte} (hv : c.valid = true)
    (ht : t ∈ [(0x01 : Byte), 0x02, 0x04, 0x07, 0x08]) :
    Receiving c .dl (h.withGroup t) room (decodeByteEvent c t d) := by
  have hheader := hr.header
  subst hheader
  simp only [List.mem_cons, List.not_mem_nil, or_false] at ht
  rcases ht with rfl | rfl | rfl | rfl | rfl <;> refine hr.byte _ hv rfl rfl ?_ <;>
    simp [afterAppend, headerOf, Header.withGroup, dateGroup, numberGroup, noNumberGroup, nameGroup, noNameGroup]

/-- The last byte of a body ends the field (R206, R207). -/
theorem Receiving.lastByte (hr : Receiving c .data h (room + 1) d) (v : Byte) (hv : c.valid = true)
    (hone : d.cnt = 1) : Receiving c h.next h room (decodeByteEvent c v d) := by
  have hheader := hr.header
  have hone : (appendByte v d).cnt = 1 := hone
  have hdone : afterAppend .data v (appendByte v d) = fieldDone { appendByte v d with cnt := 0 } :=
    countData_of_eq_one hone
  exact hr.byte v hv rfl (by rw [hdone, ds_fieldDone]; exact congrArg Header.next hheader)
    (by rw [hdone]; exact hheader)

/-- An earlier byte counts down (R207). -/
theorem Receiving.dataByte (hr : Receiving c .data h (room + 1) d) (v : Byte) (hv : c.valid = true)
    (hmore : d.cnt ≠ 1) :
    Receiving c .data h room (decodeByteEvent c v d) ∧ (decodeByteEvent c v d).cnt = d.cnt - 1 := by
  have hmore : (appendByte v d).cnt ≠ 1 := hmore
  have hcount : afterAppend .data v (appendByte v d) = { appendByte v d with cnt := d.cnt - 1 } :=
    countData_of_ne_one hmore
  exact ⟨hr.byte v hv rfl (by rw [hcount]; exact hr.state) (by rw [hcount]; exact hr.header),
    by rw [hr.decodeByteEvent_eq v rfl, hcount]⟩

/-- The bytes of a body, as many as `cnt` announces (R207). -/
theorem Receiving.body {bs : List Byte} (hr : Receiving c .data h (bs.length + room) d) (hv : c.valid = true)
    (hcnt : d.cnt.toNat = bs.length) (hne : bs ≠ []) : Receiving c h.next h room (decodeBytes c bs d) := by
  induction bs generalizing d with
  | nil => exact absurd rfl hne
  | cons v bs ih =>
    rw [List.length_cons] at hcnt
    rw [List.length_cons, Nat.add_right_comm] at hr
    by_cases hlast : bs = []
    · subst hlast
      rw [List.length_nil, Nat.zero_add] at hr
      exact hr.lastByte v hv (BitVec.eq_of_toNat_eq hcnt)
    · have hpos : 0 < bs.length := List.length_pos_iff.2 hlast
      have hmore : d.cnt ≠ 1 := fun hone => by
        have hone : d.cnt.toNat = 1 := congrArg BitVec.toNat hone
        omega
      obtain ⟨hnext, hcount⟩ := hr.dataByte v hv hmore
      exact ih hnext (by rw [hcount]; bv_omega) hlast

/-- A length byte and the body it announces (R205 to R207). -/
theorem Receiving.field {bs : List Byte} (hr : Receiving c .dl h (bs.length + room + 1) d) (hv : c.valid = true)
    (hlen : bs.length ≤ 255) :
    Receiving c h.next h room (decodeBytes c (BitVec.ofNat 8 bs.length :: bs) d) := by
  have hheader := hr.header
  by_cases hempty : bs = []
  · subst hempty
    rw [List.length_nil, Nat.zero_add] at hr
    exact hr.byte 0 hv rfl (congrArg Header.next hheader) hheader
  · have hpos : 0 < bs.length := List.length_pos_iff.2 hempty
    have htoNat := toNat_lengthByte hlen
    have hne : BitVec.ofNat 8 bs.length ≠ 0 := fun hzero => by
      have hzero : (BitVec.ofNat 8 bs.length).toNat = 0 := congrArg BitVec.toNat hzero
      omega
    have hopen : afterAppend .dl (BitVec.ofNat 8 bs.length) (appendByte (BitVec.ofNat 8 bs.length) d) =
        { appendByte (BitVec.ofNat 8 bs.length) d with cnt := BitVec.ofNat 8 bs.length, ds := .data } :=
      fieldLength_of_ne_zero hne _
    have hdata : Receiving c .data h (bs.length + room) (decodeByteEvent c (BitVec.ofNat 8 bs.length) d) :=
      hr.byte _ hv rfl (by rw [hopen]) (by rw [hopen]; exact hheader)
    refine hdata.body hv ?_ hempty
    rw [hr.decodeByteEvent_eq _ rfl, hopen, htoNat]

/-- A whole group. -/
theorem Receiving.group {g : Byte × List Byte} (hr : Receiving c .dt h ((groupBytes g).length + room) d)
    (hv : c.valid = true) (ht : g.1 ∈ [(0x01 : Byte), 0x02, 0x04, 0x07, 0x08]) (hlen : g.2.length ≤ 255) :
    Receiving c (h.withGroup g.1).next (h.withGroup g.1) room (decodeBytes c (groupBytes g) d) := by
  have hcount : (groupBytes g).length + room = g.2.length + room + 1 + 1 := by
    simp only [groupBytes, List.length_cons]
    omega
  rw [hcount] at hr
  exact (hr.dataType hv ht).field hv hlen

end Byte

/-! ## The header and the checksum byte (R195, R196, R198, R209) -/

/-- The message type and the length byte of a new session. -/
theorem receiving_header {c : Config} {room : Nat} {ty : Byte} {fmt : Fmt} (len : Byte) (hv : c.valid = true)
    (hroom : room + 2 ≤ c.MSG_MAX) (hty : (ty = 0x80 ∧ fmt = .mdmf) ∨ (ty = 0x04 ∧ fmt = .sdmf)) :
    Receiving c .dt { fmt := fmt, mlen := len, nameseen := false, numseen := false } room
      (decodeBytes c [ty, len] resetDecoder) := by
  have htype : Receiving c .ml { fmt := fmt, mlen := 0, nameseen := false, numseen := false } (room + 1)
      (decodeByteEvent c ty resetDecoder) := by
    rcases hty with ⟨rfl, rfl⟩ | ⟨rfl, rfl⟩ <;> exact (receiving_resetDecoder hroom).byte _ hv rfl rfl rfl
  refine htype.byte len hv rfl rfl ?_
  have hheader := htype.header
  simp only [headerOf, Header.mk.injEq] at hheader
  obtain ⟨hfmt, -, hname, hnum⟩ := hheader
  simp [headerOf, afterAppend, recordLength, hfmt, hname, hnum]

/-- A message whose checksum byte is right is complete, whatever its format; its bytes stand in the buffer, and
`lenbad` says whether the length byte is right. -/
theorem Receiving.complete {c : Config} {h : Header} {bs : List Byte} {ck : Byte}
    (hr : Receiving c .ck h 1 (decodeBytes c bs resetDecoder)) (hv : c.valid = true) (hck : isChecksumOf ck bs) :
    (decodeBytes c (bs ++ [ck]) resetDecoder).ds = .complete ∧
    messageBytes (decodeBytes c (bs ++ [ck]) resetDecoder) = bs ++ [ck] ∧
    (decodeBytes c (bs ++ [ck]) resetDecoder).lenbad = decide ((h.mlen.toNat : Int) ≠ (bs.length : Int) - 2) := by
  have hroom : (decodeBytes c bs resetDecoder).msglen.toNat ≠ c.MSG_MAX := hr.msglen_ne
  have hlive : terminal (decodeBytes c bs resetDecoder).ds = false := by rw [hr.state]; rfl
  have hmlen : (decodeBytes c bs resetDecoder).mlen = h.mlen := congrArg Header.mlen hr.header
  have hlen := msglen_decodeBytes hv hlive
  have hcount := appendByte_msglen_toNat ck hv hr.stored hroom
  refine ⟨(ds_decodeBytes_ck ck hr.state hroom).trans (if_pos hck), ?_, ?_⟩ <;>
    rw [decodeBytes_append, decodeBytes_singleton]
  · rw [hr.decodeByteEvent_eq ck rfl, messageBytes_afterAppend, messageBytes_appendByte ck hv hr.stored hroom,
      (messageBytes_decodeBytes hv hlive).2]
  · rw [decodeByteEvent_ck ck hr.state hroom, judge_eq, ← appendByte_of_ck ck hr.state]
    simp only [lengthDiffers, appendByte_mlen, hmlen, hcount, hlen]
    exact decide_eq_decide.2 (by omega)

/-! ## The groups of an SDMF message (R206) -/

theorem recognised_of_no_number {t : Byte} (ht : t ∈ [(0x01 : Byte), 0x07, 0x08]) :
    t ∈ [(0x01 : Byte), 0x02, 0x04, 0x07, 0x08] := by
  simp only [List.mem_cons, List.not_mem_nil, or_false] at ht ⊢
  tauto

/-- A date/time, name or no-name group is no number group (R199, R202, R203). -/
theorem Header.withGroup_numseen_of_no_number {t : Byte} (ht : t ∈ [(0x01 : Byte), 0x07, 0x08]) (h : Header) :
    (h.withGroup t).numseen = h.numseen := by
  simp only [List.mem_cons, List.not_mem_nil, or_false] at ht
  rcases ht with rfl | rfl | rfl <;> simp [Header.withGroup]

theorem Header.next_of_sdmf {h : Header} (hfmt : h.fmt = .sdmf) : h.next = if h.numseen then .ck else .dt := by
  rw [Header.next, hfmt]
  simp

/-- An SDMF message whose number group is still to come, and whose length byte was `len`. -/
structure AwaitsNumber (c : Config) (len : Byte) (room : Nat) (h : Header) (d : Decoder) : Prop where
  receiving : Receiving c .dt h room d
  fmt : h.fmt = .sdmf
  mlen : h.mlen = len
  numseen : h.numseen = false

/-- The groups before the number group. -/
theorem AwaitsNumber.groups {c : Config} {len : Byte} {room : Nat} {gs : List (Byte × List Byte)} {h : Header}
    {d : Decoder} (ha : AwaitsNumber c len ((groupsBytes gs).length + room) h d) (hv : c.valid = true)
    (hgs : ∀ g ∈ gs, g.1 ∈ [(0x01 : Byte), 0x07, 0x08] ∧ g.2.length ≤ 255) :
    ∃ h', AwaitsNumber c len room h' (decodeBytes c (groupsBytes gs) d) := by
  induction gs generalizing h d with
  | nil => exact ⟨h, by simpa [groupsBytes, decodeBytes] using ha⟩
  | cons g gs ih =>
    obtain ⟨⟨htype, hlen⟩, hgs⟩ := List.forall_mem_cons.1 hgs
    have hbytes : groupsBytes (g :: gs) = groupBytes g ++ groupsBytes gs := rfl
    have hr := ha.receiving
    rw [hbytes, List.length_append, Nat.add_assoc] at hr
    have hnum := (Header.withGroup_numseen_of_no_number htype h).trans ha.numseen
    have hnext : (h.withGroup g.1).next = .dt := by
      rw [Header.next_of_sdmf (h := h.withGroup g.1) ha.fmt, hnum]
      rfl
    have hgroup := hr.group hv (recognised_of_no_number htype) hlen
    rw [hnext] at hgroup
    rw [hbytes, decodeBytes_append]
    exact ih ⟨hgroup, ha.fmt, ha.mlen, hnum⟩ hgs

/-- The number group completes the fields. -/
theorem AwaitsNumber.number {c : Config} {len : Byte} {room : Nat} {digits : List Byte} {h : Header} {d : Decoder}
    (ha : AwaitsNumber c len ((groupBytes (0x02, digits)).length + room) h d) (hv : c.valid = true)
    (hdigits : digits.length ≤ 255) :
    Receiving c .ck (h.withGroup 0x02) room (decodeBytes c (groupBytes (0x02, digits)) d) := by
  have hnext : (h.withGroup 0x02).next = .ck := by
    rw [Header.next_of_sdmf (h := h.withGroup 0x02) ha.fmt]
    simp [Header.withGroup]
  exact hnext ▸ ha.receiving.group hv (by simp) hdigits

/-- The bytes of an SDMF message up to its checksum byte: some groups, then the number group (R214 (a)). -/
def sdmfHead (len : Byte) (gs : List (Byte × List Byte)) (digits : List Byte) : List Byte :=
  [0x04, len] ++ groupsBytes (gs ++ [(0x02, digits)])

theorem groupsBytes_append (gs hs : List (Byte × List Byte)) :
    groupsBytes (gs ++ hs) = groupsBytes gs ++ groupsBytes hs := List.flatMap_append

theorem groupsBytes_singleton (g : Byte × List Byte) : groupsBytes [g] = groupBytes g := List.append_nil _

theorem sdmfHead_eq (len : Byte) (gs : List (Byte × List Byte)) (digits : List Byte) :
    [0x04, len] ++ groupsBytes gs ++ [0x02, BitVec.ofNat 8 digits.length] ++ digits = sdmfHead len gs digits := by
  rw [sdmfHead, groupsBytes_append, groupsBytes_singleton, groupBytes]
  simp only [List.append_assoc, List.cons_append, List.nil_append]

/-- An SDMF message awaits its checksum byte after its number group (R214 (a)). -/
theorem receiving_sdmfHead {c : Config} {room : Nat} {gs : List (Byte × List Byte)} {digits : List Byte} (len : Byte)
    (hv : c.valid = true) (hgs : ∀ g ∈ gs, g.1 ∈ [(0x01 : Byte), 0x07, 0x08] ∧ g.2.length ≤ 255)
    (hdigits : digits.length ≤ 255) (hroom : (sdmfHead len gs digits).length + room ≤ c.MSG_MAX) :
    ∃ h : Header, h.mlen = len ∧ Receiving c .ck h room (decodeBytes c (sdmfHead len gs digits) resetDecoder) := by
  have hcount : (sdmfHead len gs digits).length + room =
      (groupsBytes gs).length + ((groupBytes (0x02, digits)).length + room) + 2 := by
    rw [sdmfHead, groupsBytes_append, groupsBytes_singleton]
    simp only [List.length_append, List.length_cons, List.length_nil]
    omega
  have hheader := receiving_header len hv (hcount ▸ hroom) (.inr ⟨rfl, rfl⟩)
  obtain ⟨h, hgroups⟩ := AwaitsNumber.groups ⟨hheader, rfl, rfl, rfl⟩ hv hgs
  refine ⟨h.withGroup 0x02, hgroups.mlen, ?_⟩
  rw [sdmfHead, groupsBytes_append, groupsBytes_singleton, decodeBytes_append, decodeBytes_append]
  exact hgroups.number hv hdigits

end Sys2Proof.Messages
end

section
/-! PROOFS. EXTRACT on a message of groups (45_host_field_extractor.md R221, R226), and the SDMF message from its
bytes to its record (44 R214 (a)). -/

namespace Sys2Proof.Extraction
open Sys2Proof Sys2Proof.Machine Sys2Proof.Messages

/-! ## The walk over accepted groups -/

/-- An accepted group goes to its field. -/
theorem assignField_of_acceptedGroup {fieldMax : Nat} {g : Byte × List Byte} (h : acceptedGroup g) (r : CidRecord) :
    assignField fieldMax g.1 g.2 r = some (intoRecord fieldMax r g) := by
  obtain ⟨t, body⟩ := g
  obtain ⟨ht, -, hdate⟩ := h
  simp only [List.mem_cons, List.not_mem_nil, or_false] at ht
  rcases ht with rfl | rfl | rfl | rfl | rfl
  · obtain ⟨dt, hdt⟩ := Option.ne_none_iff_exists'.1 (hdate rfl)
    simp [assignField, intoRecord, hdt]
  all_goals rfl

/-- The walk takes one group at a time. -/
theorem walkGroups_groupBytes_append {fieldMax : Nat} {g : Byte × List Byte} (h : acceptedGroup g) (fuel : Nat)
    (rest : List Byte) (r : CidRecord) :
    walkGroups fieldMax (fuel + 1) (groupBytes g ++ rest) r =
      walkGroups fieldMax fuel rest (intoRecord fieldMax r g) := by
  obtain ⟨-, hlen, -⟩ := id h
  have hfits : ¬ (g.2 ++ rest).length < g.2.length := by simp
  rw [groupBytes, List.cons_append, List.cons_append, walkGroups, toNat_lengthByte hlen, if_neg hfits,
    List.take_left, List.drop_left, assignField_of_acceptedGroup h]

/-- The walk over accepted groups, whatever follows them. -/
theorem walkGroups_groupsBytes_append {fieldMax : Nat} {gs : List (Byte × List Byte)}
    (h : ∀ g ∈ gs, acceptedGroup g) (fuel : Nat) (rest : List Byte) (r : CidRecord) :
    walkGroups fieldMax (fuel + gs.length) (groupsBytes gs ++ rest) r =
      walkGroups fieldMax fuel rest (gs.foldl (intoRecord fieldMax) r) := by
  induction gs generalizing r with
  | nil => rfl
  | cons g gs ih =>
    obtain ⟨hg, hgs⟩ := List.forall_mem_cons.1 h
    have hbytes : groupsBytes (g :: gs) ++ rest = groupBytes g ++ (groupsBytes gs ++ rest) := List.append_assoc ..
    rw [hbytes, List.length_cons, ← Nat.add_assoc, walkGroups_groupBytes_append hg, ih hgs, List.foldl_cons]

theorem length_le_length_groupsBytes (gs : List (Byte × List Byte)) : gs.length ≤ (groupsBytes gs).length := by
  induction gs with
  | nil => rfl
  | cons g gs ih =>
    have hbytes : groupsBytes (g :: gs) = groupBytes g ++ groupsBytes gs := rfl
    rw [hbytes, List.length_append, groupBytes, List.length_cons, List.length_cons]
    omega

/-- The record of a message of accepted groups. -/
theorem extractBytes_groups {fieldMax : Nat} {gs : List (Byte × List Byte)} (ty len ck : Byte)
    (h : ∀ g ∈ gs, acceptedGroup g) : extractBytes fieldMax ([ty, len] ++ groupsBytes gs ++ [ck]) =
      .record (gs.foldl (intoRecord fieldMax) emptyRecord) := by
  have hlength : ([ty, len] ++ groupsBytes gs ++ [ck]).length = (groupsBytes gs).length + 3 := by simp
  have hgroups : (([ty, len] ++ groupsBytes gs ++ [ck]).drop 2).take (groupsBytes gs).length = groupsBytes gs := by
    simp
  have hle : gs.length ≤ (groupsBytes gs).length + 3 := Nat.le_add_right_of_le (length_le_length_groupsBytes gs)
  obtain ⟨fuel, hfuel⟩ := Nat.exists_eq_add_of_le' hle
  have hwalk := walkGroups_groupsBytes_append (fieldMax := fieldMax) h fuel [] emptyRecord
  rw [List.append_nil, ← hfuel] at hwalk
  have hend : ∀ (n : Nat) (r : CidRecord), walkGroups fieldMax n [] r = some r := fun n r => by cases n <;> rfl
  rw [extractBytes, hlength, if_neg (by omega), Nat.add_sub_cancel, hgroups, hwalk, hend]

/-! ## The SDMF message -/

/-- Settles O57: the number group brings the decoder to `DS_CK`, the checksum byte completes the message, and EXTRACT
takes the number from the last group. -/
theorem sdmfNumberMessageCompletes : Obligations.SdmfNumberMessageCompletes := by
  intro c gs digits len ck hv hgs hdigits head hroom hck d
  have hhead : head = sdmfHead len gs digits := sdmfHead_eq len gs digits
  clear_value head
  subst hhead
  obtain ⟨h, rfl, hr⟩ := receiving_sdmfHead len hv hgs hdigits hroom
  obtain ⟨hds, hbytes, hlenbad⟩ := hr.complete hv hck
  refine ⟨hds, hbytes, hlenbad, fun hdates hmax => ?_⟩
  have haccepted : ∀ g ∈ gs ++ [(0x02, digits)], acceptedGroup g := by
    intro g hg
    rcases List.mem_append.1 hg with hg | hg
    · obtain ⟨htype, hlen⟩ := hgs g hg
      exact ⟨recognised_of_no_number htype, hlen, hdates g hg⟩
    · cases List.mem_singleton.1 hg
      exact ⟨by simp, hdigits, fun ht => absurd (show (0x02 : Byte) = 0x01 from ht) (by decide)⟩
  have hrecord := (congrArg _ hbytes).trans (extractBytes_groups (fieldMax := c.FIELD_MAX) 0x04 h.mlen ck haccepted)
  have hnumber : digits.take c.FIELD_MAX = digits := List.take_of_length_le (hdigits.trans hmax)
  rw [List.foldl_append] at hrecord
  refine ⟨_, hrecord, hnumber, ?_⟩
  rintro rfl
  exact congrArg (fun number => ({ emptyRecord with number := number } : CidRecord)) hnumber

end Sys2Proof.Extraction
end

section
/-! PROOFS. EXTRACT on any bytes (45_host_field_extractor.md R220 to R226), and what the host answers by STATUS and
EXTRACT (40_sample_input_stage.md R121). Any bytes are accepted groups and then nothing or a group that fails. -/

namespace Sys2Proof.FieldExtractor
open Sys2Proof Sys2Proof.Machine Sys2Proof.DecoderRuns Sys2Proof.Messages Sys2Proof.Extraction

/-! ## The feed result (R121) -/

/-- What the host answers at Complete. -/
def completeResult : Extracted → FeedResult
  | .record r => .complete r
  | .malformedMessage => .malformedMessage

theorem feedResult_of_complete {s : State} (h : s.dec.ds = .complete) :
    feedResult s = completeResult (extractBytes s.cfg.FIELD_MAX (messageBytes s.dec)) := by
  rw [feedResult, h]
  cases extractBytes s.cfg.FIELD_MAX (messageBytes s.dec) <;> rfl

/-- What the host answers at Complete with this message in the buffer. -/
theorem feedResult_of_message {s : State} {m : List Byte} (h : s.dec.ds = .complete) (hm : messageBytes s.dec = m) :
    feedResult s = completeResult (extractBytes s.cfg.FIELD_MAX m) :=
  hm ▸ feedResult_of_complete h

/-- A live session has no result yet. -/
theorem feedResult_of_live {s : State} (h : terminal s.dec.ds = false) : feedResult s = .needMoreSamples := by
  rcases (terminal_eq_false_iff _).1 h with hds | hds | hds | hds | hds | hds <;> rw [feedResult, hds]

/-- A live session that cannot pop is starved (10_state.md R45). -/
theorem starved_of_live {s : State} (hlive : terminal s.dec.ds = false) (hpop : popEnabled s = false) :
    starved s = true := by
  rw [starved, hlive, hpop]
  rfl

theorem eq_false_of_flagBit {b : Bool} (h : flagBit b = 0) : b = false := by
  cases b
  · rfl
  · exact absurd h (by decide)

/-- Each terminal state has an outcome code of its own (30_encoding.md R96). -/
theorem eq_terminalCode_of_outcomeCode {ds : DState} {o : TerminalOutcome}
    (h : outcomeCode ds = outcomeCode (terminalCode o)) : ds = terminalCode o := by
  revert h
  cases o <;> cases ds <;> decide

/-- Settles O20: EXTRACT reads the buffer as RDMB does, and the fields of STATUS tell the decoder's state. -/
theorem extractReturnsTheRecord : Obligations.ExtractReturnsTheRecord := by
  refine ⟨fun s => ?_, fun s => ?_⟩ <;> rw [← messageBytes_eq_map_read]
  · rfl
  obtain ⟨hdone, hout, -, -, -, -, -, -, -, -, hstarved, -⟩ := SessionAndStatus.statusWord_fields s
  rw [hdone, hout, hstarved]
  refine ⟨fun h => ?_, fun h => ?_, fun h => ?_, fun h => ?_, fun h => ?_⟩
  · have hlive := eq_false_of_flagBit h
    exact ⟨feedResult_of_live hlive, fun hpop => congrArg flagBit (starved_of_live hlive hpop)⟩
  · rw [feedResult_of_complete (eq_terminalCode_of_outcomeCode (o := .complete) h)]
    cases extractBytes s.cfg.FIELD_MAX (messageBytes s.dec) <;> rfl
  · rw [feedResult, eq_terminalCode_of_outcomeCode (o := .unknownFormat) h]
    rfl
  · rw [feedResult, eq_terminalCode_of_outcomeCode (o := .checksumFailed) h]
    rfl
  · rw [feedResult, eq_terminalCode_of_outcomeCode (o := .malformedMessage) h]
    rfl

/-! ## DATETIME (R223) -/

theorem dateTime_of_length_lt {body : List Byte} (h : body.length < 8) : dateTime body = none := by
  unfold dateTime
  split
  · simp only [List.length_cons] at h
    omega
  · rfl

theorem isDigit_iff (v : Byte) : isDigit v = true ↔ 0x30 ≤ v.toNat ∧ v.toNat ≤ 0x39 := by
  simp only [isDigit, Bool.and_eq_true, decide_eq_true_eq]

/-- DATETIME on eight bytes and more: the month alone decides. -/
theorem dateTime_cons (m0 m1 d0 d1 h0 h1 n0 n1 : Byte) (more : List Byte) :
    dateTime (m0 :: m1 :: d0 :: d1 :: h0 :: h1 :: n0 :: n1 :: more) =
      if 0x30 ≤ m0.toNat ∧ m0.toNat ≤ 0x39 ∧ 0x30 ≤ m1.toNat ∧ m1.toNat ≤ 0x39 ∧
          1 ≤ (m0.toNat - 0x30) * 10 + (m1.toNat - 0x30) ∧ (m0.toNat - 0x30) * 10 + (m1.toNat - 0x30) ≤ 12 then
        some (monthNames.getD ((m0.toNat - 0x30) * 10 + (m1.toNat - 0x30) - 1) [] ++ [0x20, d0, d1],
          [h0, h1, 0x20, 0x68, 0x72, 0x20, 0x3A, 0x20, n0, n1, 0x20, 0x6D, 0x69, 0x6E])
      else none := by
  rw [dateTime]
  by_cases hdigits : (isDigit m0 && isDigit m1) = true
  · obtain ⟨htens, hunits⟩ := Bool.and_eq_true_iff.1 hdigits
    obtain ⟨hlo0, hhi0⟩ := (isDigit_iff m0).1 htens
    obtain ⟨hlo1, hhi1⟩ := (isDigit_iff m1).1 hunits
    rw [if_pos hdigits]
    simp only [hlo0, hhi0, hlo1, hhi1, true_and, List.append_assoc]
    rfl
  · rw [if_neg hdigits, if_neg]
    rintro ⟨hlo0, hhi0, hlo1, hhi1, -⟩
    exact hdigits (Bool.and_eq_true_iff.2 ⟨(isDigit_iff m0).2 ⟨hlo0, hhi0⟩, (isDigit_iff m1).2 ⟨hlo1, hhi1⟩⟩)

/-! ## Where a group should start (R225) -/

/-- Where no group fails there is none, or an accepted one. -/
theorem eq_nil_or_exists_acceptedGroup {bytes : List Byte} (h : ¬ groupFails bytes) :
    bytes = [] ∨ ∃ g rest, acceptedGroup g ∧ bytes = groupBytes g ++ rest := by
  match bytes with
  | [] => exact .inl rfl
  | [_] => exact absurd trivial h
  | t :: l :: body =>
    simp only [groupFails, not_or, not_and, not_lt, not_not] at h
    obtain ⟨hfits, htype, hdate⟩ := h
    have hlen : (body.take l.toNat).length = l.toNat := List.length_take_of_le hfits
    refine .inr ⟨(t, body.take l.toNat), body.drop l.toNat, ⟨htype, ?_, hdate⟩, ?_⟩
    · have := l.isLt
      simp only [hlen]
      omega
    · rw [groupBytes, hlen, BitVec.ofNat_toNat, BitVec.setWidth_eq, List.cons_append, List.cons_append,
        List.take_append_drop]

/-- Any bytes are accepted groups and then nothing or a group that fails. -/
theorem exists_groupsBytes_append (bytes : List Byte) : ∃ gs rest, bytes = groupsBytes gs ++ rest ∧
    (∀ g ∈ gs, acceptedGroup g) ∧ (rest = [] ∨ groupFails rest) := by
  by_cases hfails : groupFails bytes
  · exact ⟨[], bytes, rfl, by simp, .inr hfails⟩
  rcases eq_nil_or_exists_acceptedGroup hfails with rfl | ⟨g, rest, hg, hbytes⟩
  · exact ⟨[], [], rfl, by simp, .inl rfl⟩
  · have hshorter : rest.length < bytes.length := by
      rw [hbytes, List.length_append, groupBytes, List.length_cons]
      omega
    subst hbytes
    obtain ⟨gs, last, rfl, hgs, hlast⟩ := exists_groupsBytes_append rest
    exact ⟨g :: gs, last, (List.append_assoc ..).symm, List.forall_mem_cons.2 ⟨hg, hgs⟩, hlast⟩
termination_by bytes.length

/-- A type that is none of the five, or a date/time group that DATETIME refuses, has no field (R221). -/
theorem assignField_eq_none {fieldMax : Nat} {t : Byte} {body : List Byte}
    (h : t ∉ [(0x01 : Byte), 0x02, 0x04, 0x07, 0x08] ∨ (t = 0x01 ∧ dateTime body = none)) (r : CidRecord) :
    assignField fieldMax t body r = none := by
  rcases h with htype | ⟨rfl, hdate⟩
  · simp only [List.mem_cons, List.not_mem_nil, or_false, not_or] at htype
    obtain ⟨hdate, hnumber, hnonumber, hname, hnoname⟩ := htype
    rw [assignField, if_neg hdate, if_neg hnumber, if_neg hnonumber, if_neg hname, if_neg hnoname]
  · rw [assignField, if_pos rfl, hdate]
    rfl

/-- The walk ends without a record where a group fails. -/
theorem walkGroups_of_groupFails {fieldMax : Nat} {bytes : List Byte} (h : groupFails bytes) (fuel : Nat)
    (r : CidRecord) : walkGroups fieldMax fuel bytes r = none := by
  match fuel, bytes with
  | _, [] => exact h.elim
  | 0, _ :: _ => rfl
  | _ + 1, [_] => rfl
  | fuel + 1, t :: l :: body =>
    rw [walkGroups]
    rcases h with hshort | hnone
    · rw [if_pos hshort]
    · rw [assignField_eq_none hnone, ite_self]

/-- EXTRACT walks the bytes between the length byte and the checksum byte. -/
theorem extractBytes_message (fieldMax : Nat) (ty len ck : Byte) (bytes : List Byte) :
    extractBytes fieldMax ([ty, len] ++ bytes ++ [ck]) =
      (walkGroups fieldMax (bytes.length + 3) bytes emptyRecord).elim .malformedMessage .record := by
  have hlength : ([ty, len] ++ bytes ++ [ck]).length = bytes.length + 3 := by simp
  have hbytes : (([ty, len] ++ bytes ++ [ck]).drop 2).take bytes.length = bytes := by simp
  rw [extractBytes, hlength, if_neg (by omega), Nat.add_sub_cancel, hbytes]
  cases walkGroups fieldMax (bytes.length + 3) bytes emptyRecord <;> rfl

/-- A group that fails after accepted ones makes EXTRACT fail. -/
theorem extractBytes_of_groupFails {fieldMax : Nat} {gs : List (Byte × List Byte)} {rest : List Byte}
    (ty len ck : Byte) (hgs : ∀ g ∈ gs, acceptedGroup g) (hfails : groupFails rest) :
    extractBytes fieldMax ([ty, len] ++ (groupsBytes gs ++ rest) ++ [ck]) = .malformedMessage := by
  have hle : gs.length ≤ (groupsBytes gs ++ rest).length + 3 := by
    have := length_le_length_groupsBytes gs
    rw [List.length_append]
    omega
  obtain ⟨fuel, hfuel⟩ := Nat.exists_eq_add_of_le' hle
  rw [extractBytes_message, hfuel, walkGroups_groupsBytes_append hgs, walkGroups_of_groupFails hfails]
  rfl

/-- EXTRACT of fewer than three bytes (R225 (a)). -/
theorem extractBytes_of_length_lt {fieldMax : Nat} {m : List Byte} (h : m.length < 3) :
    extractBytes fieldMax m = .malformedMessage := if_pos h

/-- Three bytes and more have a type byte, a length byte and a checksum byte. -/
theorem exists_message_of_three_le {m : List Byte} (h : 3 ≤ m.length) :
    ∃ (ty len ck : Byte) (bytes : List Byte), m = [ty, len] ++ bytes ++ [ck] := by
  match m with
  | ty :: len :: b :: bs =>
    have hlast := List.dropLast_append_getLast (List.cons_ne_nil b bs)
    exact ⟨ty, len, _, _, by rw [List.append_assoc, hlast]; rfl⟩

/-- EXTRACT fails exactly where a group fails after accepted ones, or there is no room for a message (R225). -/
theorem extractBytes_eq_malformedMessage_iff (fieldMax : Nat) (m : List Byte) :
    extractBytes fieldMax m = .malformedMessage ↔
    m.length < 3 ∨ ∃ (ty len ck : Byte) (gs : List (Byte × List Byte)) (rest : List Byte),
      m = [ty, len] ++ groupsBytes gs ++ rest ++ [ck] ∧ (∀ g ∈ gs, acceptedGroup g) ∧ groupFails rest := by
  constructor
  · intro hmalformed
    by_cases hshort : m.length < 3
    · exact .inl hshort
    obtain ⟨ty, len, ck, bytes, rfl⟩ := exists_message_of_three_le (Nat.le_of_not_lt hshort)
    obtain ⟨gs, rest, rfl, hgs, rfl | hfails⟩ := exists_groupsBytes_append bytes
    · rw [List.append_nil, extractBytes_groups ty len ck hgs] at hmalformed
      cases hmalformed
    · exact .inr ⟨ty, len, ck, gs, rest, by simp only [List.append_assoc], hgs, hfails⟩
  · rintro (hshort | ⟨ty, len, ck, gs, rest, rfl, hgs, hfails⟩)
    · exact extractBytes_of_length_lt hshort
    · rw [List.append_assoc [ty, len]]
      exact extractBytes_of_groupFails ty len ck hgs hfails

/-- Settles O60: the walk ends at the first group that fails, and takes every group before it. -/
theorem extractFailsExactlyOnMalformedMessages : Obligations.ExtractFailsExactlyOnMalformedMessages :=
  ⟨extractBytes_eq_malformedMessage_iff, fun _ ty len ck _ => extractBytes_groups ty len ck,
    fun _ => dateTime_of_length_lt, dateTime_cons⟩

end Sys2Proof.FieldExtractor
end

section
/-! PROOFS. The same fields in either order (45_host_field_extractor.md R228; 44_message_decoder.md R214 (b)): a record
holds the fields of its groups whatever their order, and an MDMF message completes once both were seen. -/

namespace Sys2Proof.FieldOrder
open Sys2Proof Sys2Proof.Machine Sys2Proof.Messages Sys2Proof.Extraction Sys2Proof.FieldExtractor

/-- The fields of a call: a date, a name and a number, the last two there or not, and bodies that a length byte can
announce (30_encoding.md R88). -/
structure CallFields (nt ut : Byte) (date name number : List Byte) : Prop where
  name_type : nt = 0x07 ∨ nt = 0x08
  number_type : ut = 0x02 ∨ ut = 0x04
  length_date : date.length ≤ 255
  length_name : name.length ≤ 255
  length_number : number.length ≤ 255

/-- Two groups in either order. -/
def EitherOrder (a b : Byte × List Byte) (gs : List (Byte × List Byte)) : Prop := gs = [a, b] ∨ gs = [b, a]

section Fields
variable {nt ut : Byte} {date name number : List Byte} {gs gs' : List (Byte × List Byte)}

theorem EitherOrder.recognised (horder : EitherOrder (nt, name) (ut, number) gs)
    (hf : CallFields nt ut date name number) :
    ∀ g ∈ gs, g.1 ≠ 0x01 ∧ g.1 ∈ [(0x01 : Byte), 0x02, 0x04, 0x07, 0x08] ∧ g.2.length ≤ 255 := by
  have hname : nt ≠ 0x01 ∧ nt ∈ [(0x01 : Byte), 0x02, 0x04, 0x07, 0x08] ∧ name.length ≤ 255 := by
    rcases hf.name_type with rfl | rfl <;> exact ⟨by decide, by simp, hf.length_name⟩
  have hnumber : ut ≠ 0x01 ∧ ut ∈ [(0x01 : Byte), 0x02, 0x04, 0x07, 0x08] ∧ number.length ≤ 255 := by
    rcases hf.number_type with rfl | rfl <;> exact ⟨by decide, by simp, hf.length_number⟩
  rcases horder with rfl | rfl
  · exact List.forall_mem_cons.2 ⟨hname, List.forall_mem_singleton.2 hnumber⟩
  · exact List.forall_mem_cons.2 ⟨hnumber, List.forall_mem_singleton.2 hname⟩

/-! ## EXTRACT (R221, R226) -/

/-- The record of the three fields. -/
def callRecord (fieldMax : Nat) (nt ut : Byte) (dt : List Byte × List Byte) (name number : List Byte) : CidRecord :=
  { date := dt.1, time := dt.2
    name := if nt = 0x07 then name.take fieldMax else []
    number := if ut = 0x02 then number.take fieldMax else [] }

/-- The groups write different fields, so either may come first. -/
theorem EitherOrder.foldl_intoRecord (horder : EitherOrder (nt, name) (ut, number) gs)
    (hf : CallFields nt ut date name number) (fieldMax : Nat) (dt : List Byte × List Byte) :
    gs.foldl (intoRecord fieldMax) { emptyRecord with date := dt.1, time := dt.2 } =
      callRecord fieldMax nt ut dt name number := by
  obtain ⟨rfl | rfl, rfl | rfl, -⟩ := hf <;> rcases horder with rfl | rfl <;> rfl

theorem EitherOrder.extractBytes_eq_record (horder : EitherOrder (nt, name) (ut, number) gs)
    (hf : CallFields nt ut date name number) {dt : List Byte × List Byte} (hdt : dateTime date = some dt)
    (fieldMax : Nat) (ty len ck : Byte) :
    extractBytes fieldMax ([ty, len] ++ groupsBytes ((0x01, date) :: gs) ++ [ck]) =
      .record (callRecord fieldMax nt ut dt name number) := by
  have haccepted : ∀ g ∈ (0x01, date) :: gs, acceptedGroup g := by
    refine List.forall_mem_cons.2 ⟨⟨by simp, hf.length_date, fun _ => by simp [hdt]⟩, fun g hg => ?_⟩
    obtain ⟨hne, htype, hlen⟩ := horder.recognised hf g hg
    exact ⟨htype, hlen, fun h => absurd h hne⟩
  have hdate : intoRecord fieldMax emptyRecord (0x01, date) = { emptyRecord with date := dt.1, time := dt.2 } := by
    simp [intoRecord, hdt]
  rw [extractBytes_groups ty len ck haccepted, List.foldl_cons, hdate, horder.foldl_intoRecord hf]

/-- A date/time group that DATETIME refuses fails, whatever follows it (R225 (b), (c)). -/
theorem groupFails_of_bad_date (hdate : date.length ≤ 255) (hdt : dateTime date = none) (rest : List Byte) :
    groupFails (groupBytes (0x01, date) ++ rest) := by
  have hbody : (date ++ rest).take date.length = date := List.take_left
  refine .inr (.inr ⟨rfl, ?_⟩)
  rw [toNat_lengthByte hdate]
  exact (congrArg dateTime hbody).trans hdt

theorem extractBytes_of_bad_date (hdate : date.length ≤ 255) (hdt : dateTime date = none) (fieldMax : Nat)
    (ty len ck : Byte) (gs : List (Byte × List Byte)) :
    extractBytes fieldMax ([ty, len] ++ groupsBytes ((0x01, date) :: gs) ++ [ck]) = .malformedMessage :=
  extractBytes_of_groupFails (gs := []) ty len ck (by simp) (groupFails_of_bad_date hdate hdt (groupsBytes gs))

/-- EXTRACT sees neither the order nor the checksum byte. -/
theorem EitherOrder.extractBytes_eq (horder : EitherOrder (nt, name) (ut, number) gs)
    (horder' : EitherOrder (nt, name) (ut, number) gs') (hf : CallFields nt ut date name number) (fieldMax : Nat)
    (ty len ck ck' : Byte) :
    extractBytes fieldMax ([ty, len] ++ groupsBytes ((0x01, date) :: gs) ++ [ck]) =
      extractBytes fieldMax ([ty, len] ++ groupsBytes ((0x01, date) :: gs') ++ [ck']) := by
  cases hdt : dateTime date with
  | none => rw [extractBytes_of_bad_date hf.length_date hdt, extractBytes_of_bad_date hf.length_date hdt]
  | some dt => rw [horder.extractBytes_eq_record hf hdt, horder'.extractBytes_eq_record hf hdt]

/-! ## The decoder (44 R206, R214 (b)) -/

/-- Three groups, the last of which completes the fields. -/
theorem receiving_threeGroups {c : Config} {h : Header} {room : Nat} {d : Decoder} {g₁ g₂ g₃ : Byte × List Byte}
    (hr : Receiving c .dt h ((groupsBytes [g₁, g₂, g₃]).length + room) d) (hv : c.valid = true)
    (hgs : ∀ g ∈ [g₁, g₂, g₃], g.1 ∈ [(0x01 : Byte), 0x02, 0x04, 0x07, 0x08] ∧ g.2.length ≤ 255)
    (hfirst : (h.withGroup g₁.1).next = .dt) (hsecond : ((h.withGroup g₁.1).withGroup g₂.1).next = .dt)
    (hthird : (((h.withGroup g₁.1).withGroup g₂.1).withGroup g₃.1).next = .ck) :
    Receiving c .ck (((h.withGroup g₁.1).withGroup g₂.1).withGroup g₃.1) room
      (decodeBytes c (groupsBytes [g₁, g₂, g₃]) d) := by
  obtain ⟨⟨ht₁, hl₁⟩, hgs⟩ := List.forall_mem_cons.1 hgs
  obtain ⟨⟨ht₂, hl₂⟩, hgs⟩ := List.forall_mem_cons.1 hgs
  obtain ⟨ht₃, hl₃⟩ := List.forall_mem_singleton.1 hgs
  have hbytes : groupsBytes [g₁, g₂, g₃] = groupBytes g₁ ++ (groupBytes g₂ ++ groupBytes g₃) := by
    simp [groupsBytes]
  rw [hbytes, List.length_append, List.length_append, Nat.add_assoc, Nat.add_assoc] at hr
  have hr₁ := hfirst ▸ hr.group hv ht₁ hl₁
  have hr₂ := hsecond ▸ hr₁.group hv ht₂ hl₂
  have hr₃ := hthird ▸ hr₂.group hv ht₃ hl₃
  rwa [hbytes, decodeBytes_append, decodeBytes_append]

/-- The three fields in an MDMF message that fits the buffer. -/
theorem EitherOrder.complete {c : Config} {len ck : Byte} (horder : EitherOrder (nt, name) (ut, number) gs)
    (hf : CallFields nt ut date name number) (hv : c.valid = true)
    (hroom : 3 + (groupsBytes ((0x01, date) :: gs)).length ≤ c.MSG_MAX)
    (hck : isChecksumOf ck ([0x80, len] ++ groupsBytes ((0x01, date) :: gs))) :
    let message := [0x80, len] ++ groupsBytes ((0x01, date) :: gs) ++ [ck]
    (decodeBytes c message resetDecoder).ds = .complete ∧
      messageBytes (decodeBytes c message resetDecoder) = message := by
  have hgs : ∀ g ∈ (0x01, date) :: gs, g.1 ∈ [(0x01 : Byte), 0x02, 0x04, 0x07, 0x08] ∧ g.2.length ≤ 255 :=
    List.forall_mem_cons.2 ⟨⟨by simp, hf.length_date⟩, fun g hg => (horder.recognised hf g hg).2⟩
  have hheader := receiving_header (room := (groupsBytes ((0x01, date) :: gs)).length + 1) len hv (by omega)
    (.inl ⟨rfl, rfl⟩)
  have hfields : ∃ h : Header,
      Receiving c .ck h 1 (decodeBytes c ([0x80, len] ++ groupsBytes ((0x01, date) :: gs)) resetDecoder) := by
    rw [decodeBytes_append]
    obtain ⟨rfl | rfl, rfl | rfl, -⟩ := hf <;> rcases horder with rfl | rfl <;>
      exact ⟨_, receiving_threeGroups hheader hv hgs rfl rfl rfl⟩
  obtain ⟨h, hr⟩ := hfields
  obtain ⟨hds, hbytes, -⟩ := hr.complete hv hck
  exact ⟨hds, hbytes⟩

end Fields

theorem length_groupsBytes_swap (g a b : Byte × List Byte) :
    (groupsBytes [g, a, b]).length = (groupsBytes [g, b, a]).length :=
  (((List.Perm.swap b a []).cons g).flatMap_right groupBytes).length_eq

/-- Settles O58: both messages complete and hold their groups, of which EXTRACT makes the same. -/
theorem recordDoesNotDependOnFieldOrder : Obligations.RecordDoesNotDependOnFieldOrder := by
  intro t nt ut date name number hnt hut hdate hname hnumber nameFirst numberFirst
  have hf : CallFields nt ut date name number := ⟨hnt, hut, hdate, hname, hnumber⟩
  have hleft : EitherOrder (nt, name) (ut, number) [(nt, name), (ut, number)] := .inl rfl
  have hright : EitherOrder (nt, name) (ut, number) [(ut, number), (nt, name)] := .inr rfl
  refine ⟨fun fieldMax len ck ck' => ⟨hleft.extractBytes_eq hright hf fieldMax t len ck ck',
    fun dt hdt => hleft.extractBytes_eq_record hf hdt fieldMax t len ck⟩, ?_⟩
  intro s len ck ck' hv hroom hck hck' u v
  have hroom' : 3 + numberFirst.length ≤ s.cfg.MSG_MAX :=
    (congrArg (3 + ·) (length_groupsBytes_swap ..)).trans_le hroom
  obtain ⟨hds, hbytes⟩ := hleft.complete hf hv hroom hck
  obtain ⟨hds', hbytes'⟩ := hright.complete hf hv hroom' hck'
  have hresult := feedResult_of_message (s := u) hds hbytes
  have hresult' := feedResult_of_message (s := v) hds' hbytes'
  refine ⟨hds, hds', hbytes, hbytes', ?_, fun dt hdt => ?_⟩
  · rw [hresult, hresult']
    exact congrArg completeResult (hleft.extractBytes_eq hright hf ..)
  · rw [hresult]
    exact congrArg completeResult (hleft.extractBytes_eq_record hf hdt ..)

end Sys2Proof.FieldOrder
end

section
/-! PROOFS. What the decoder has taken when it completes (45_host_field_extractor.md R227; 44_message_decoder.md R212):
in every state of a live session the bytes so far are a header, whole groups, and the group that has begun. -/

namespace Sys2Proof.Tiling
open Sys2Proof Sys2Proof.Machine Sys2Proof.Invariants Sys2Proof.DecoderRows Sys2Proof.DecoderRuns Sys2Proof.Messages
  Sys2Proof.Extraction

/-- A recognised data type (30_encoding.md R88). -/
def Recognised (t : Byte) : Prop := t ∈ [(0x01 : Byte), 0x02, 0x04, 0x07, 0x08]

/-- A type byte, a length byte and whole groups of recognised types. -/
structure Tiled (gs : List (Byte × List Byte)) (bs : List Byte) : Prop where
  header : ∃ ty len : Byte, (ty = 0x80 ∨ ty = 0x04) ∧ bs = [ty, len] ++ groupsBytes gs
  groups : ∀ g ∈ gs, Recognised g.1 ∧ g.2.length ≤ 255

/-- The bytes that a live session has taken by its decoder state and `cnt`, which counts the bytes of the current body
still to come (44 R205, R207). -/
inductive Taken (cnt : Byte) : DState → List Byte → Prop
  | none : Taken cnt .mt []
  | type {ty : Byte} (hty : ty = 0x80 ∨ ty = 0x04) : Taken cnt .ml [ty]
  | groups {gs : List (Byte × List Byte)} {bs : List Byte} (h : Tiled gs bs) : Taken cnt .dt bs
  | dataType {gs : List (Byte × List Byte)} {bs : List Byte} {t : Byte} (h : Tiled gs bs) (ht : Recognised t) :
      Taken cnt .dl (bs ++ [t])
  | body {gs : List (Byte × List Byte)} {bs : List Byte} {t : Byte} {part : List Byte} (h : Tiled gs bs)
      (ht : Recognised t) (hlen : part.length + cnt.toNat ≤ 255) (hopen : cnt ≠ 0) :
      Taken cnt .data (bs ++ t :: BitVec.ofNat 8 (part.length + cnt.toNat) :: part)
  | fields {gs : List (Byte × List Byte)} {bs : List Byte} (h : Tiled gs bs) (hsome : gs ≠ []) : Taken cnt .ck bs

/-! ## One more byte (R194 to R207) -/

/-- A group that is whole joins the groups before it. -/
theorem Tiled.group {gs : List (Byte × List Byte)} {bs : List Byte} {t : Byte} {body : List Byte} (h : Tiled gs bs)
    (ht : Recognised t) (hlen : body.length ≤ 255) :
    Tiled (gs ++ [(t, body)]) (bs ++ t :: BitVec.ofNat 8 body.length :: body) := by
  obtain ⟨⟨ty, len, hty, rfl⟩, hgs⟩ := h
  refine ⟨⟨ty, len, hty, ?_⟩, List.forall_mem_append.2 ⟨hgs, List.forall_mem_singleton.2 ⟨ht, hlen⟩⟩⟩
  rw [groupsBytes_append, groupsBytes_singleton, groupBytes, List.append_assoc]

/-- FIELDDONE goes to the next group or to the checksum byte (R206). -/
theorem Tiled.taken_fieldDone {gs : List (Byte × List Byte)} {bs : List Byte} (h : Tiled gs bs) (hsome : gs ≠ [])
    (d : Decoder) : Taken (fieldDone d).cnt (fieldDone d).ds bs := by
  rcases fieldDone_cases d with hds | ⟨hds, -⟩ <;> rw [hds]
  · exact .groups h
  · exact .fields h hsome

/-- A message type after which the session is live is one of the two known (R195 to R197). -/
theorem afterAppend_mt_live {v : Byte} {d : Decoder} (hlive : terminal (afterAppend .mt v d).ds = false) :
    (v = 0x80 ∨ v = 0x04) ∧ (afterAppend .mt v d).ds = .ml := by
  have hknown : v = 0x80 ∨ v = 0x04 := by
    by_contra hother
    obtain ⟨hmdmf, hsdmf⟩ := not_or.1 hother
    rw [ByteFramer.afterAppend_mt_of_other hmdmf hsdmf] at hlive
    cases hlive
  refine ⟨hknown, ?_⟩
  rcases hknown with rfl | rfl <;> rfl

/-- A data type after which the session is live is recognised (R199 to R204). -/
theorem afterAppend_dt_live {v : Byte} {d : Decoder} (hlive : terminal (afterAppend .dt v d).ds = false) :
    Recognised v ∧ (afterAppend .dt v d).ds = .dl := by
  refine ⟨?_, ?_⟩
  · by_contra hother
    simp only [Recognised, List.mem_cons, List.not_mem_nil, or_false, not_or] at hother
    obtain ⟨hdate, hnumber, hnonumber, hname, hnoname⟩ := hother
    rw [ByteFramer.afterAppend_dt_of_other hdate hnumber hnonumber hname hnoname] at hlive
    cases hlive
  · obtain ⟨hds | hds, -⟩ := afterAppend_dt v d
    · exact hds
    · rw [hds] at hlive
      cases hlive

/-- The length byte of a group: a body begins, or the field is empty (R205). -/
theorem Tiled.taken_fieldLength {gs : List (Byte × List Byte)} {bs : List Byte} {t : Byte} (h : Tiled gs bs)
    (ht : Recognised t) (v : Byte) (d : Decoder) :
    Taken (fieldLength v d).cnt (fieldLength v d).ds (bs ++ [t] ++ [v]) := by
  rw [List.append_assoc]
  by_cases hempty : v = 0
  · subst hempty
    rw [fieldLength_zero]
    exact (h.group (body := []) ht (Nat.zero_le _)).taken_fieldDone (by simp) _
  · rw [fieldLength_of_ne_zero hempty]
    have hv : BitVec.ofNat 8 (([] : List Byte).length + v.toNat) = v := by simp
    have hle : ([] : List Byte).length + v.toNat ≤ 255 := by
      have := v.isLt
      rw [List.length_nil]
      omega
    have hbody := Taken.body (part := []) h ht hle hempty
    rw [hv] at hbody
    exact hbody

/-- A byte of a body (R207). -/
theorem Tiled.taken_countData {gs : List (Byte × List Byte)} {bs part : List Byte} {t : Byte} {d : Decoder}
    (h : Tiled gs bs) (ht : Recognised t) (hlen : part.length + d.cnt.toNat ≤ 255) (hopen : d.cnt ≠ 0)
    (hds : d.ds = .data) (v : Byte) :
    Taken (countData d).cnt (countData d).ds
      (bs ++ t :: BitVec.ofNat 8 (part.length + d.cnt.toNat) :: part ++ [v]) := by
  rw [List.append_assoc, List.cons_append, List.cons_append]
  have hpart : (part ++ [v]).length = part.length + 1 := List.length_append
  by_cases hlast : d.cnt = 1
  · have hcount : part.length + d.cnt.toNat = (part ++ [v]).length := by rw [hlast, hpart]; rfl
    rw [countData_of_eq_one hlast, hcount]
    rw [hcount] at hlen
    exact (h.group ht hlen).taken_fieldDone (by simp) _
  · have hcount : part.length + d.cnt.toNat = (part ++ [v]).length + (d.cnt - 1).toNat := by bv_omega
    rw [countData_of_ne_one hlast, hds, hcount]
    rw [hcount] at hlen
    exact .body h ht hlen (by bv_omega)

/-- Every byte after which the session is live. -/
theorem Taken.byte {bs : List Byte} {d : Decoder} {v : Byte} (h : Taken d.cnt d.ds bs) (hck : d.ds ≠ .ck)
    (hlive : terminal (afterAppend d.ds v d).ds = false) :
    Taken (afterAppend d.ds v d).cnt (afterAppend d.ds v d).ds (bs ++ [v]) := by
  generalize hst : d.ds = st at h hck hlive
  generalize hcnt : d.cnt = cnt at h
  cases h with
  | none =>
    obtain ⟨hty, hds⟩ := afterAppend_mt_live hlive
    rw [hds]
    exact .type hty
  | @type ty hty => exact .groups (gs := []) ⟨⟨ty, v, hty, rfl⟩, by simp⟩
  | groups h =>
    obtain ⟨ht, hds⟩ := afterAppend_dt_live hlive
    rw [hds]
    exact .dataType h ht
  | dataType h ht => exact h.taken_fieldLength ht v d
  | body h ht hlen hopen =>
    subst hcnt
    exact h.taken_countData ht hlen hopen hst v
  | fields => exact absurd rfl hck

/-- While a session is live its bytes are tiled as the decoder's state says. -/
theorem taken_decodeBytes {c : Config} (bs : List Byte) (hlive : terminal (decodeBytes c bs resetDecoder).ds = false) :
    Taken (decodeBytes c bs resetDecoder).cnt (decodeBytes c bs resetDecoder).ds bs := by
  induction bs using List.reverseRecOn with
  | nil => exact .none
  | append_singleton bs v ih =>
    rw [decodeBytes_append, decodeBytes_singleton] at hlive ⊢
    obtain ⟨hbefore, hck, -, heq⟩ := decodeByteEvent_live hlive
    rw [heq] at hlive ⊢
    exact Taken.byte (d := appendByte v _) (ih hbefore) hck hlive

/-! ## The message that completed (R209, R212) -/

theorem Taken.exists_tiled {cnt : Byte} {bs : List Byte} (h : Taken cnt .ck bs) : ∃ gs, Tiled gs bs ∧ gs ≠ [] := by
  cases h with
  | fields h hsome => exact ⟨_, h, hsome⟩

/-- Only the checksum byte completes a message. -/
theorem eq_ck_of_afterAppend_complete {st : DState} {v : Byte} {d : Decoder} (hst : terminal st = false)
    (hds : d.ds = st) (h : (afterAppend st v d).ds = .complete) : st = .ck := by
  cases st with
  | complete | ckfail | unknown | malformed => cases hst
  | ck => rfl
  | ml => cases h
  | mt => rcases afterAppend_mt v d with ⟨hnext, -⟩ | ⟨hnext, -⟩ <;> rw [hnext] at h <;> cases h
  | dt => obtain ⟨hnext | hnext, -⟩ := afterAppend_dt v d <;> rw [hnext] at h <;> cases h
  | dl => obtain ⟨hnext | ⟨hnext, -⟩ | ⟨hnext, -⟩, -⟩ := afterAppend_dl v d <;> rw [hnext] at h <;> cases h
  | data => obtain ⟨hnext | ⟨hnext, -⟩ | ⟨hnext, -⟩, -⟩ := afterAppend_data v hds <;> rw [hnext] at h <;> cases h

/-- A message that completed is bytes that led to `DS_CK` and the checksum byte; what came later is not stored. -/
theorem exists_checksum_of_complete {c : Config} {bs : List Byte} (hv : c.valid = true)
    (h : (decodeBytes c bs resetDecoder).ds = .complete) :
    ∃ head ck, (decodeBytes c head resetDecoder).ds = .ck ∧
      messageBytes (decodeBytes c bs resetDecoder) = head ++ [ck] := by
  induction bs using List.reverseRecOn with
  | nil => cases h
  | append_singleton bs v ih =>
    rw [decodeBytes_append, decodeBytes_singleton] at h ⊢
    rcases decodeByteEvent_cases c v (decodeBytes c bs resetDecoder) with
      ⟨-, heq⟩ | ⟨-, -, heq⟩ | ⟨hlive, hroom, heq⟩ <;> rw [heq] at h ⊢
    · exact ih h
    · cases h
    · obtain ⟨hstored, hbytes⟩ := messageBytes_decodeBytes hv hlive
      refine ⟨bs, v, eq_ck_of_afterAppend_complete (d := appendByte v _) hlive rfl h, ?_⟩
      rw [messageBytes_afterAppend, messageBytes_appendByte v hv hstored hroom, hbytes]

/-- Settles O59: the bytes up to the checksum byte are tiled, so EXTRACT can refuse only a date. -/
theorem completeMessageIsTiledByGroups : Obligations.CompleteMessageIsTiledByGroups := by
  intro c bs hv hcomplete
  obtain ⟨head, ck, hck, hmessage⟩ := exists_checksum_of_complete hv hcomplete
  have htaken := taken_decodeBytes (c := c) head (by rw [hck]; rfl)
  rw [hck] at htaken
  obtain ⟨gs, ⟨⟨ty, len, hty, rfl⟩, hgs⟩, hsome⟩ := htaken.exists_tiled
  refine ⟨ty, len, ck, gs, hty, hsome, hgs, hmessage, fun hdates => ?_⟩
  have haccepted : ∀ g ∈ gs, acceptedGroup g := fun g hg => by
    obtain ⟨htype, hlen⟩ := hgs g hg
    exact ⟨htype, hlen, hdates g hg⟩
  exact ⟨_, (congrArg _ hmessage).trans (extractBytes_groups ty len ck haccepted)⟩

end Sys2Proof.Tiling
end

section
/-! PROOFS. A terminal outcome inside a POP (60_exceptions.md R246, R250): the byte that raises it is emitted by the
same POP, and with the idle framer it leaves a frozen core. -/

namespace Sys2Proof.Outcomes
open Sys2Proof Sys2Proof.Machine Sys2Proof.Invariants Sys2Proof.LineFrame Sys2Proof.MemoryOrder Sys2Proof.SampleInput
  Sys2Proof.DecoderRows

/-! ## The byte the decoder takes is on the trace outputs (43 R175, 30_encoding.md R99) -/

/-- The decoder takes nothing, or the byte in `sr` is on the trace outputs. -/
def ByteEmitted (s t : State) : Prop := SameDecoder s t ∨ t.trace.byte = some t.frm.sr

theorem runFrStopOk_byteEmitted (s : State) : ByteEmitted s (runFrStopOk s) := by
  by_cases hns : (s.frm.ns + 1).toNat = s.cfg.NSTOP
  · rw [runFrStopOk_last hns]
    exact .inr rfl
  · rw [runFrStopOk_more hns]
    exact .inl rfl

/-- Of the framer operations only FR.STOP.OK hands a byte over (43 R171 to R176). -/
theorem runFramer_byteEmitted (b : Bool) (s : State) : ByteEmitted s (runFramer b s) := by
  unfold runFramer
  cases s.frm.fs with
  | idle => exact .inl rfl
  | start => cases b <;> exact .inl rfl
  | data => exact .inl (runFrData_sameDecoder b s)
  | stop => cases b <;> [exact .inl rfl; exact runFrStopOk_byteEmitted s]

theorem runClock_byteEmitted (s : State) : ByteEmitted s (runClock s) := by
  unfold runClock
  split
  · exact runFramer_byteEmitted _ (runPllLatch (runPllAdv s))
  · exact .inl rfl

theorem afterTransition_sameDecoder (s : State) : SameDecoder s (afterTransition s) := by
  unfold afterTransition
  repeat' split
  all_goals rfl

theorem runTiming_byteEmitted (s : State) : ByteEmitted s (runTiming s) := by
  have hdec := afterTransition_sameDecoder s
  rw [runTiming_eq]
  split
  · exact .inl hdec
  · exact (runClock_byteEmitted (afterTransition s)).imp_left fun hclock => hclock.trans hdec

/-- A POP that hands a byte to the decoder shows it. -/
theorem runPop_byteEmitted (s : State) : ByteEmitted s (runPop s) := by
  cases hfifo : s.inp.fifo with
  | nil => exact .inl (congrArg State.dec (runPop_nil hfifo))
  | cons x rest =>
    obtain ⟨-, hdec, -⟩ := runSample_takeSample_frame x rest s
    rw [runPop_cons hfifo]
    exact (runTiming_byteEmitted (runSample x (takeSample rest s))).imp_left fun htiming => htiming.trans hdec

/-- An outcome comes with the byte that raised it. -/
theorem ByteEmitted.byte_of_terminal {s t : State} (ht : ByteEmitted s t) (hlive : terminal s.dec.ds = false)
    (hterminal : terminal t.dec.ds = true) : t.trace.byte = some t.frm.sr := by
  rcases ht with hsame | hbyte
  · rw [hsame, hlive] at hterminal
    cases hterminal
  · exact hbyte

/-! ## The frozen core (R246) -/

theorem popEnabled_of_terminal {s : State} (hterminal : terminal s.dec.ds = true) : popEnabled s = false := by
  simp [popEnabled, hterminal]

/-- Settles O23: only a byte raises an outcome, and it comes from a framer that becomes idle and emits it; the idle
framer clears `inv`, the outcome closes POP's gate. -/
theorem outcomeFreezesTheCore : Obligations.OutcomeFreezesTheCore := by
  intro s t hen ht hterminal
  cases (exec_pop_of_popEnabled hen).symm.trans ht
  have hlive := popEnabled_live hen
  have hidle := (runPop_byteTaken s).idle_of_terminal hlive hterminal
  have hinv := runPop_inv_of_idle (popEnabled_fifo_ne_nil hen) hidle
  have hbyte := (runPop_byteEmitted s).byte_of_terminal hlive hterminal
  obtain ⟨-, -, -, hfifo⟩ := runPop_frame s
  exact ⟨hinv, hidle, hterminal, popEnabled_of_terminal hterminal, hfifo, hbyte⟩

end Sys2Proof.Outcomes
end

section
/-! PROOFS. The block right after reset (10_state.md R49, 70_reset_and_hazards.md R271): the words of its ports and the
values of its elements. -/

namespace Sys2Proof.AfterReset
open Sys2Proof Sys2Proof.Machine Sys2Proof.SessionAndStatus Sys2Proof.SampleInput

/-- The FIFO is empty and an accepted depth is positive (00_scope.md R7), so the first sample finds room. -/
theorem sReady_resetOf {c : Config} (hv : c.valid = true) : sReady (State.resetOf c) = true := by
  obtain ⟨⟨-, -, -, -, hgate, hdepth, -⟩, -⟩ := (Scope.valid_iff c).1 hv
  have hpos : 0 < c.FIFO_DEPTH := Nat.lt_of_lt_of_le hgate hdepth
  exact (sReady_iff _).2 hpos

/-- The ports right after reset (R271), whatever address stands at `mb_addr`. -/
theorem portsOut_resetOf {c : Config} (hv : c.valid = true) (a : MbAddr) :
    portsOut a (State.resetOf c) =
      { s_ready := true, mb_data := 0, status := 0x02000000, status2 := 0, occ := 0, done := false
        bit := none, byte := none } := by
  have hmem : memRead (State.resetOf c).dec a.toNat = 0 := memRead_resetDecoder a.toNat
  rw [portsOut, sReady_resetOf hv, hmem, statusWord_resetOf hv, status2Word_resetOf]
  rfl

/-- Settles O6: the elements are `State.resetOf`'s fields, the ports those of `portsOut_resetOf`. -/
theorem resetHoldsTheSpecValues : Obligations.ResetHoldsTheSpecValues := by
  refine ⟨rfl, ?_⟩
  rintro c r hv rfl
  exact ⟨rfl, resetDisc_of_isRef, rfl, rfl, rfl, rfl, rfl, rfl, rfl, rfl, rfl, rfl, rfl, portsOut_resetOf hv,
    popEnabled_resetOf c⟩

end Sys2Proof.AfterReset
end
